-- ==== Sys2Proof/Word.lean ====
section
/-! DEFINITION. The word types of the block: every register is 32 bits wide (10_state.md R32), the
PLLG accumulators are 64 bits wide (10_state.md R45), byte lanes are 8 bits wide (20_memory.md R71). -/

namespace Sys2Proof

/-- A register, a command word, an i32 or a binary32 pattern (00_scope.md R11, R12, R23). -/
abbrev Word := BitVec 32

/-- A 64-bit accumulator value, the spec's `i64` (00_scope.md R12). -/
abbrev DWord := BitVec 64

/-- A byte lane of the bus (20_memory.md R71). -/
abbrev Byte := BitVec 8

/-- `hi32(v)`: the upper half of a 64-bit value (00_scope.md R15). -/
def hi32 (v : DWord) : Word := v.extractLsb' 32 32

/-- `lo32(v)`: the lower half of a 64-bit value (00_scope.md R15). -/
def lo32 (v : DWord) : Word := v.extractLsb' 0 32

end Sys2Proof
end

