-- ==== Sys2Proof/Syntax.lean ====
section
/-! DEFINITION. The instructions of the block: one constructor per row of spec/opcode_table.json
(30_encoding.md R93), the ten opcodes they use, and the reasons a word is no instruction. -/

namespace Sys2Proof

/-- The thirteen commands (30_encoding.md R93). The present bit P and the hold bit H tell two rows of
one opcode apart (R96, R97), so they are part of the constructor; the shifts are operands (R95). -/
inductive Instr where
  /-- `cossin`: cosine and sine of a wrapped phase (40_cossin.md R117). -/
  | cossin
  /-- `iir.update`: one filtered sample (41_biquad_iir.md R139, H = 0). -/
  | iirUpdate
  /-- `iir.update.hold`: replay the previous output (41_biquad_iir.md R139, H = 1). -/
  | iirUpdateHold
  /-- `iir.setpi`: PI controller synthesis (41_biquad_iir.md R144). -/
  | iirSetpi
  /-- `iir.setxoff`: set the input-referred offset (41_biquad_iir.md R148). -/
  | iirSetxoff
  /-- `iir.getxoff`: read the input-referred offset (41_biquad_iir.md R149). -/
  | iirGetxoff
  /-- `iir.getk`: read the DC gain (41_biquad_iir.md R150). -/
  | iirGetk
  /-- `plls.update sf,sp`: track a phase sample (42_pll_shift.md R167, P = 1). -/
  | pllsUpdate (sf sp : Nat)
  /-- `plls.update.miss sf,sp`: extrapolate over a missing sample (42_pll_shift.md R167, P = 0). -/
  | pllsUpdateMiss (sf sp : Nat)
  /-- `plls.read`: read the last estimates (42_pll_shift.md R168). -/
  | pllsRead
  /-- `pllg.update`: track a phase sample (43_pll_gain.md R186, P = 1). -/
  | pllgUpdate
  /-- `pllg.update.miss`: extrapolate over a missing sample (43_pll_gain.md R186, P = 0). -/
  | pllgUpdateMiss
  /-- `pllg.read`: read the visible estimates (43_pll_gain.md R187). -/
  | pllgRead
  deriving DecidableEq, Repr

/-- The ten opcodes of the map (30_encoding.md R93, R94), one per entry point of the source (R104). -/
inductive Opcode where
  | cossin | iirUpdate | iirSetPi | iirSetXoff | iirGetXoff | iirGetK
  | pllsUpdate | pllsRead | pllgUpdate | pllgRead
  deriving DecidableEq, Repr

/-- Why a word is ILLEGAL (30_encoding.md R92, R98). -/
inductive DecodeReject where
  /-- OP is not in the opcode map (R94). -/
  | reservedOpcode
  /-- A bit outside OP and the opcode's admitted fields is 1 (R92). -/
  | bitNotAdmitted
  /-- Fewer than four byte lanes were given: no command word at all (R99). -/
  | tooShort
  deriving DecidableEq, Repr

/-- What the decoder answers. -/
inductive Decoded where
  | ok (i : Instr)
  | reject (r : DecodeReject)
  deriving DecidableEq, Repr

/-- One row of the opcode map: a word w is the row's when `(w & mask) == match` (30_encoding.md R93). -/
structure OpRow where
  mnemonic : String
  pattern  : Word
  mask     : Word
  deriving DecidableEq, Repr

end Sys2Proof
end

