-- ==== Sys2Proof/WellFormed.lean ====
section
/-! DEFINITION. When an instruction can be written as a command word: a shift immediate fits its
5-bit field (30_encoding.md R95, R102 "two decimal integers 0..31"). A shift of 0 or 31 is
well-formed: it decodes, and raises SHIFT_RANGE when executed (R95). -/

namespace Sys2Proof

/-- A shift immediate fits the 5-bit field that codes it (30_encoding.md R95). -/
def shiftFits (n : Nat) : Bool := decide (n < 32)

/-- The checks on an instruction as syntax. Only PLLS_UPDATE has operands in the word (R93). -/
def Instr.wf : Instr → Bool
  | .cossin => true
  | .iirUpdate => true
  | .iirUpdateHold => true
  | .iirSetpi => true
  | .iirSetxoff => true
  | .iirGetxoff => true
  | .iirGetk => true
  | .pllsUpdate sf sp => shiftFits sf && shiftFits sp
  | .pllsUpdateMiss sf sp => shiftFits sf && shiftFits sp
  | .pllsRead => true
  | .pllgUpdate => true
  | .pllgUpdateMiss => true
  | .pllgRead => true

end Sys2Proof
end

