-- ==== Sys2Proof/Decode.lean ====
section
/-! DEFINITION. The decoder of 30_encoding.md R90–R99, total on every word and on every list of byte
lanes, and the encoder written from the same table. -/

namespace Sys2Proof

/-- OP = w[7:0] (30_encoding.md R91). -/
def opField (w : Word) : Byte := w.extractLsb' 0 8

/-- SF = w[12:8], the frequency shift, unsigned (30_encoding.md R91, R95). -/
def sfField (w : Word) : Nat := (w.extractLsb' 8 5).toNat

/-- SP = w[20:16], the phase shift, unsigned (30_encoding.md R91, R95). -/
def spField (w : Word) : Nat := (w.extractLsb' 16 5).toNat

/-- P = w[24], sample present (30_encoding.md R91, R96). -/
def presentBit (w : Word) : Bool := w.getLsbD 24

/-- H = w[25], hold (30_encoding.md R91, R97). -/
def holdBit (w : Word) : Bool := w.getLsbD 25

/-- The opcode map from byte values (30_encoding.md R93); every other value is reserved (R94). -/
def opcodeOf (b : Byte) : Option Opcode :=
  match b.toNat with
  | 0x01 => some .cossin
  | 0x10 => some .iirUpdate
  | 0x11 => some .iirSetPi
  | 0x12 => some .iirSetXoff
  | 0x13 => some .iirGetXoff
  | 0x14 => some .iirGetK
  | 0x20 => some .pllsUpdate
  | 0x21 => some .pllsRead
  | 0x30 => some .pllgUpdate
  | 0x31 => some .pllgRead
  | _ => none

/-- The mask of the field bits an opcode admits beside OP (30_encoding.md R92). -/
def admittedBits : Opcode → Word
  | .pllsUpdate => 0x011F1F00
  | .iirUpdate => 0x02000000
  | .pllgUpdate => 0x01000000
  | .cossin => 0
  | .iirSetPi => 0
  | .iirSetXoff => 0
  | .iirGetXoff => 0
  | .iirGetK => 0
  | .pllsRead => 0
  | .pllgRead => 0

/-- The command of an opcode, its flag bits and shift fields read from the word (30_encoding.md R93). -/
def commandOf (op : Opcode) (w : Word) : Instr :=
  match op with
  | .cossin => .cossin
  | .iirUpdate => if holdBit w then .iirUpdateHold else .iirUpdate
  | .iirSetPi => .iirSetpi
  | .iirSetXoff => .iirSetxoff
  | .iirGetXoff => .iirGetxoff
  | .iirGetK => .iirGetk
  | .pllsUpdate =>
    if presentBit w then .pllsUpdate (sfField w) (spField w)
    else .pllsUpdateMiss (sfField w) (spField w)
  | .pllsRead => .pllsRead
  | .pllgUpdate => if presentBit w then .pllgUpdate else .pllgUpdateMiss
  | .pllgRead => .pllgRead

/-- `Decode(w)` (30_encoding.md R92). The shift values are not checked here, and no register is read. -/
def decode (w : Word) : Decoded :=
  match opcodeOf (opField w) with
  | none => .reject .reservedOpcode
  | some op =>
    if w &&& ~~~(0x000000FF#32 ||| admittedBits op) ≠ 0 then .reject .bitNotAdmitted
    else .ok (commandOf op w)

/-- Byte lane i of a word carries bits [8i+7:8i] (20_memory.md R71). -/
def byteLane (w : Word) (i : Nat) : Byte := w.extractLsb' (8 * i) 8

/-- The four byte lanes of a word, lane 0 first: the lowest address holds the low byte (20_memory.md R71). -/
def lanesOf (w : Word) : List Byte := [byteLane w 0, byteLane w 1, byteLane w 2, byteLane w 3]

/-- The word that four byte lanes carry (20_memory.md R71). -/
def wordOfLanes (b0 b1 b2 b3 : Byte) : Word := b3 ++ b2 ++ b1 ++ b0

/-- The decoder on byte lanes: a command is exactly one word, four lanes (30_encoding.md R99). What
follows the first four is not looked at. -/
def decodeLanes : List Byte → Decoded
  | b0 :: b1 :: b2 :: b3 :: _ => decode (wordOfLanes b0 b1 b2 b3)
  | _ => .reject .tooShort

/-- The instruction, where there is one. -/
def Decoded.instr? : Decoded → Option Instr
  | .ok i => some i
  | .reject _ => none

/-- The decoder on an instruction numbered as spec/opcode_table.json numbers it: one word of 32 bits,
bit 0 its least significant bit. Bits at and above nbits are 0. -/
def decodeTableWord (nbits w : Nat) : Option Instr :=
  if nbits ≤ 32 then (decodeLanes (lanesOf (BitVec.ofNat 32 (w % 2 ^ nbits)))).instr? else none

/-- The word of a PLLS_UPDATE: `match | sp<<16 | sf<<8` (30_encoding.md R102, 42_pll_shift.md R167). -/
def pllsWord (pattern : Word) (sf sp : Nat) : Word :=
  pattern ||| (BitVec.ofNat 32 sp <<< 16) ||| (BitVec.ofNat 32 sf <<< 8)

/-- The command word of a well-formed instruction, from the "word" column of 30_encoding.md R93. -/
def encode : Instr → Word
  | .cossin => 0x00000001
  | .iirUpdate => 0x00000010
  | .iirUpdateHold => 0x02000010
  | .iirSetpi => 0x00000011
  | .iirSetxoff => 0x00000012
  | .iirGetxoff => 0x00000013
  | .iirGetk => 0x00000014
  | .pllsUpdate sf sp => pllsWord 0x01000020 sf sp
  | .pllsUpdateMiss sf sp => pllsWord 0x00000020 sf sp
  | .pllsRead => 0x00000021
  | .pllgUpdate => 0x01000030
  | .pllgUpdateMiss => 0x00000030
  | .pllgRead => 0x00000031

/-- The row of the opcode map that an instruction belongs to (30_encoding.md R93). -/
def rowOf : Instr → OpRow
  | .cossin => ⟨"cossin", 0x00000001, 0xFFFFFFFF⟩
  | .iirUpdate => ⟨"iir.update", 0x00000010, 0xFFFFFFFF⟩
  | .iirUpdateHold => ⟨"iir.update.hold", 0x02000010, 0xFFFFFFFF⟩
  | .iirSetpi => ⟨"iir.setpi", 0x00000011, 0xFFFFFFFF⟩
  | .iirSetxoff => ⟨"iir.setxoff", 0x00000012, 0xFFFFFFFF⟩
  | .iirGetxoff => ⟨"iir.getxoff", 0x00000013, 0xFFFFFFFF⟩
  | .iirGetk => ⟨"iir.getk", 0x00000014, 0xFFFFFFFF⟩
  | .pllsUpdate _ _ => ⟨"plls.update", 0x01000020, 0xFFE0E0FF⟩
  | .pllsUpdateMiss _ _ => ⟨"plls.update.miss", 0x00000020, 0xFFE0E0FF⟩
  | .pllsRead => ⟨"plls.read", 0x00000021, 0xFFFFFFFF⟩
  | .pllgUpdate => ⟨"pllg.update", 0x01000030, 0xFFFFFFFF⟩
  | .pllgUpdateMiss => ⟨"pllg.update.miss", 0x00000030, 0xFFFFFFFF⟩
  | .pllgRead => ⟨"pllg.read", 0x00000031, 0xFFFFFFFF⟩

/-- One instruction of each row, in the table's order. -/
def oneOfEachRow : List Instr :=
  [.cossin, .iirUpdate, .iirUpdateHold, .iirSetpi, .iirSetxoff, .iirGetxoff, .iirGetk,
   .pllsUpdate 1 1, .pllsUpdateMiss 1 1, .pllsRead, .pllgUpdate, .pllgUpdateMiss, .pllgRead]

/-- The thirteen rows of the opcode map (30_encoding.md R93). -/
def opRows : List OpRow := oneOfEachRow.map rowOf

/-- A word is a given row when `(w & mask) == match` (30_encoding.md R93). -/
def OpRow.admits (r : OpRow) (w : Word) : Bool := w &&& r.mask == r.pattern

end Sys2Proof
end

