-- ==== Sys2Proof/Machine/Params.lean ====
section
/-! DEFINITION. The build parameters that the spec fixes (00_scope.md R9) and the constants of the
hard-wired registers (10_state.md R33, R34). -/

namespace Sys2Proof.Machine

/-- D: the CosSin table has 2^D entries (00_scope.md R9). -/
def tableDepth : Nat := 7

/-- L: fraction bits of a table value (00_scope.md R9). -/
def lutFrac : Nat := 17

/-- OUT_FRAC: fraction bits of the CosSin outputs (00_scope.md R9, R22). -/
def outFrac : Nat := 30

/-- PI4 = round(π/4 · 2^16) (00_scope.md R9, 40_cossin.md R115). -/
def pi4 : Int := 51472

/-- EPS = 2^-23 as binary32 (00_scope.md R9, 41_biquad_iir.md R134). -/
def epsWord : Word := 0x34000000

/-- SHIFT_MIN (00_scope.md R9, 42_pll_shift.md R161). -/
def shiftMin : Nat := 1

/-- SHIFT_MAX (00_scope.md R9, 42_pll_shift.md R161). -/
def shiftMax : Nat := 30

/-- What ID reads (10_state.md R33). -/
def idWord : Word := 0x49445350

/-- What CFG reads: DEPTH in [3:0], LFRAC in [8:4], OFRAC in [13:9], FLT = 0 in [15:14]
(10_state.md R34). -/
def cfgWord : Word := BitVec.ofNat 32 (tableDepth + lutFrac * 2 ^ 4 + outFrac * 2 ^ 9)

end Sys2Proof.Machine
end

