-- ==== Sys2Proof/Machine/CosSinTable.lean ====
section
/-! DEFINITION. The CosSin table (40_cossin.md R111): 128 pairs (C_i, S_i) of unsigned 17-bit integers,
read-only, reached only through COSSIN (20_memory.md R78). The values are the spec's transcription,
which is normative. The ROM word packs C_i in bits [33:17] and S_i in bits [16:0]; the packing cannot be
seen from outside the block. -/

namespace Sys2Proof.Machine

/-- Entries 0–15 of 40_cossin.md R111. -/
def lut0 : List (Nat × Nat) :=
  [(131071, 402), (131066, 1206), (131057, 2011), (131042, 2815),
   (131022, 3619), (130997, 4423), (130968, 5226), (130933, 6030),
   (130894, 6833), (130849, 7636), (130800, 8439), (130746, 9241),
   (130687, 10043), (130623, 10845), (130554, 11646), (130480, 12447)]

/-- Entries 16–31 of 40_cossin.md R111. -/
def lut1 : List (Nat × Nat) :=
  [(130401, 13247), (130317, 14047), (130228, 14847), (130135, 15645),
   (130036, 16444), (129933, 17241), (129825, 18038), (129712, 18834),
   (129594, 19630), (129471, 20425), (129343, 21219), (129210, 22012),
   (129073, 22804), (128931, 23596), (128783, 24387), (128631, 25176)]

/-- Entries 32–47 of 40_cossin.md R111. -/
def lut2 : List (Nat × Nat) :=
  [(128474, 25965), (128313, 26753), (128146, 27540), (127975, 28326),
   (127799, 29110), (127617, 29894), (127432, 30676), (127241, 31458),
   (127046, 32238), (126845, 33017), (126640, 33794), (126431, 34571),
   (126216, 35346), (125997, 36120), (125773, 36892), (125544, 37663)]

/-- Entries 48–63 of 40_cossin.md R111. -/
def lut3 : List (Nat × Nat) :=
  [(125311, 38433), (125073, 39201), (124830, 39968), (124582, 40733),
   (124330, 41497), (124073, 42259), (123811, 43019), (123545, 43778),
   (123274, 44535), (122998, 45291), (122718, 46045), (122433, 46797),
   (122144, 47547), (121850, 48296), (121551, 49042), (121248, 49787)]

/-- Entries 64–79 of 40_cossin.md R111. -/
def lut4 : List (Nat × Nat) :=
  [(120940, 50530), (120628, 51271), (120311, 52011), (119990, 52748),
   (119664, 53483), (119333, 54216), (118998, 54948), (118659, 55677),
   (118315, 56404), (117967, 57129), (117614, 57851), (117257, 58572),
   (116895, 59290), (116529, 60007), (116159, 60720), (115784, 61432)]

/-- Entries 80–95 of 40_cossin.md R111. -/
def lut5 : List (Nat × Nat) :=
  [(115405, 62141), (115022, 62848), (114634, 63553), (114242, 64255),
   (113845, 64955), (113445, 65652), (113040, 66347), (112630, 67039),
   (112217, 67729), (111799, 68416), (111377, 69101), (110951, 69783),
   (110521, 70463), (110087, 71139), (109648, 71814), (109205, 72485)]

/-- Entries 96–111 of 40_cossin.md R111. -/
def lut6 : List (Nat × Nat) :=
  [(108758, 73154), (108308, 73820), (107853, 74483), (107394, 75143),
   (106930, 75801), (106463, 76455), (105992, 77107), (105517, 77756),
   (105038, 78402), (104555, 79045), (104068, 79685), (103577, 80322),
   (103082, 80956), (102584, 81587), (102081, 82215), (101575, 82840)]

/-- Entries 112–127 of 40_cossin.md R111. -/
def lut7 : List (Nat × Nat) :=
  [(101064, 83462), (100550, 84080), (100033, 84696), (99511, 85308),
   (98986, 85917), (98457, 86523), (97924, 87125), (97388, 87724),
   (96847, 88320), (96304, 88913), (95756, 89502), (95205, 90088),
   (94651, 90670), (94093, 91249), (93531, 91825), (92966, 92397)]

/-- The whole table, entry i at place i (40_cossin.md R111). -/
def cosSinTable : List (Nat × Nat) :=
  lut0 ++ lut1 ++ lut2 ++ lut3 ++ lut4 ++ lut5 ++ lut6 ++ lut7

/-- The ROM word of an entry, {C_i, S_i} (40_cossin.md R111). -/
def romWord (e : Nat × Nat) : BitVec 34 := BitVec.ofNat 17 e.1 ++ BitVec.ofNat 17 e.2

/-- `LutRead(i)`: the pair (C_i, S_i) (40_cossin.md R111, R114). Every index of 7 bits is in the table. -/
def lutRead (i : BitVec 7) : BitVec 17 × BitVec 17 :=
  let w := romWord (cosSinTable.getD i.toNat (0, 0))
  (w.extractLsb' 17 17, w.extractLsb' 0 17)

end Sys2Proof.Machine
end

