-- ==== Sys2Proof/Config.lean ====
section
/-! DEFINITION. The values the spec leaves open and the model keeps free. The build parameters that
the spec fixes (00_scope.md R9) stand in Sys2Proof/Machine/Params.lean. BASE is an argument of
`Machine.windowOffset`, LAT_op is left out (log entries 7 and 8). -/

namespace Sys2Proof.Config

/-- FREE VALUE (log entry 3). BEADDR.SIZE of an access that is not 1, 2 or 4 bytes wide is one of the
five codes 3–7, and the spec does not say which: "3–7 = other or unknown" (10_state.md R39). The n-th
recorded bus error takes the code 3 plus this value. Nothing constrains it beyond its range. -/
opaque freeSizeIndex : Nat → Fin 5

end Sys2Proof.Config
end

