-- ==== Sys2Proof/Machine/State.lean ====
section
/-! DEFINITION. The state of the block: the register file of 10_state.md R32, grouped by unit, and
beside it the host's side of the bus (log entries 1–4). The registers ID and CFG are hard-wired and
have no storage (R33, R34): `Machine.readReg` gives their constants. -/

namespace Sys2Proof.Machine

/-- The result codes of STATUS.ERR (60_exceptions.md R200). Codes 5–15 are never produced. -/
inductive ErrCode where
  | ok | illegalCmd | shiftRange | piDegenerate | xoffUndefined
  deriving DecidableEq, Repr

/-- STATUS, by its fields (10_state.md R35). The reserved bits have no storage: they read 0. -/
structure Status where
  /-- [3:0], the result of the most recent command. -/
  err    : ErrCode
  /-- [8], sticky, set by a command fault. -/
  fault  : Bool
  /-- [9], sticky, set by a bus-error access. -/
  busErr : Bool
  deriving DecidableEq, Repr

/-- BEADDR, by its fields (10_state.md R39). -/
structure BusErrorRecord where
  /-- [11:0], the byte offset of the access. -/
  off  : BitVec 12
  /-- [12], 1 for a write. -/
  wr   : Bool
  /-- [15:13], the access size code. -/
  size : BitVec 3
  deriving DecidableEq, Repr

/-- The IIR configuration registers (10_state.md R40, R41), `ba = [b0, b1, b2, a1, a2]`. -/
structure IirCfg where
  ba0  : Word
  ba1  : Word
  ba2  : Word
  ba3  : Word
  ba4  : Word
  yoff : Word
  ymin : Word
  ymax : Word
  deriving DecidableEq, Repr

/-- The IIR state registers (10_state.md R42). Between updates they hold x0, x1, y0, y1, y2. -/
structure IirXy where
  xy0 : Word
  xy1 : Word
  xy2 : Word
  xy3 : Word
  xy4 : Word
  deriving DecidableEq, Repr

/-- The shift-gain PLL's accumulators and latches (10_state.md R43, R44). -/
structure Plls where
  x  : Word
  f  : Word
  y  : Word
  ph : Word
  fr : Word
  deriving DecidableEq, Repr

/-- The general-gain PLL's registers (10_state.md R45). Each 64-bit accumulator is two registers, as
the map has them, so a torn pair is the mixed value (R46). -/
structure Pllg where
  x   : Word
  fLo : Word
  fHi : Word
  yLo : Word
  yHi : Word
  f0  : Word
  y0  : Word
  deriving DecidableEq, Repr

/-- The width of a host access (20_memory.md R72). Only `word` is admitted. -/
inductive AccessSize where
  | byte | half | word
  /-- 64 bits, a burst, or any width the block cannot name: SIZE is one of 3–7 (10_state.md R39). -/
  | other
  deriving DecidableEq, Repr

/-- What the outside does to the block: one bus access at a byte offset of the window
(20_memory.md R70, R86), or the platform driving the RESET input (70_reset_and_hazards.md R231). -/
inductive HostEvent where
  | read (off : BitVec 12) (size : AccessSize)
  | write (off : BitVec 12) (size : AccessSize) (data : Word)
  /-- RESET driven to a level; true is asserted. -/
  | reset (level : Bool)
  deriving DecidableEq, Repr

/-- The host's side of the bus. MODEL'S OWN but for the RESET level: the block itself has no queue
(10_state.md R30). -/
structure HostPort where
  /-- What the host and the platform do from here on, the next first (log entry 1). -/
  script  : List HostEvent
  /-- The data the bus returned for the access served last, where that was a read (log entry 2). -/
  rdata   : Option Word
  /-- The level of the RESET input (70_reset_and_hazards.md R230; log entry 4). -/
  resetIn : Bool
  /-- The index of the next free value (log entry 3). -/
  freeIdx : Nat
  deriving DecidableEq, Repr

/-- The machine: every register of 10_state.md R32 that has storage, and the host's side. -/
structure State where
  status : Status
  cmd    : Word
  arg0   : Word
  arg1   : Word
  arg2   : Word
  res0   : Word
  res1   : Word
  fcmd   : Word
  beaddr : BusErrorRecord
  iir    : IirCfg
  xy     : IirXy
  plls   : Plls
  pllg   : Pllg
  host   : HostPort
  deriving DecidableEq, Repr

/-- A step never stops with a fault: the spec's faults are records in STATUS, and "a fault does not
stop, stall or lock the block" (60_exceptions.md R203). So there is no constructor, and no one raises
one. -/
inductive Fault where
  deriving DecidableEq, Repr

/-- Why a step has no meaning. -/
inductive Refusal where
  /-- The instruction has no meaning yet. Raised by a refused arm of `exec`, of which this model has
  none. Safe: the step stops. -/
  | notModelled (mnemonic : String)
  /-- A host access while RESET is asserted, raised by serving the access: "a model does not admit
  it" (70_reset_and_hazards.md R232). Safe: the step stops. -/
  | accessDuringReset
  deriving DecidableEq, Repr

/-- A name of a register of the map (10_state.md R32). -/
inductive Reg where
  | id | cfg | status | cmd | arg0 | arg1 | arg2 | res0 | res1 | fcmd | beaddr
  | iirBa0 | iirBa1 | iirBa2 | iirBa3 | iirBa4 | iirYoff | iirYmin | iirYmax
  | iirXy0 | iirXy1 | iirXy2 | iirXy3 | iirXy4
  | pllsX | pllsF | pllsY | pllsPh | pllsFr
  | pllgX | pllgFLo | pllgFHi | pllgYLo | pllgYHi | pllgF0 | pllgY0
  deriving DecidableEq, Repr

/-- The access right of a register (10_state.md R32): read-only, read/write, or the command register,
a write of which executes. -/
inductive AccessRight where
  | ro | rw | command
  deriving DecidableEq, Repr

/-- What a step or a command answers. -/
abbrev Result := Host.Outcome State Fault Refusal

/-- The machine right after reset (10_state.md R32, R50; 70_reset_and_hazards.md R230): every register
0, RESET released, and nothing more to do for the host (log entries 1–4). -/
def State.reset : State where
  status := ⟨.ok, false, false⟩
  cmd := 0
  arg0 := 0
  arg1 := 0
  arg2 := 0
  res0 := 0
  res1 := 0
  fcmd := 0
  beaddr := ⟨0, false, 0⟩
  iir := ⟨0, 0, 0, 0, 0, 0, 0, 0⟩
  xy := ⟨0, 0, 0, 0, 0⟩
  plls := ⟨0, 0, 0, 0, 0⟩
  pllg := ⟨0, 0, 0, 0, 0, 0, 0⟩
  host := ⟨[], none, false, 0⟩

end Sys2Proof.Machine
end

