-- ==== Sys2Proof/Machine/Flags.lean ====
section
/-! DEFINITION. The flags of the block are the fields of STATUS (10_state.md R35, R47): their codes,
the word they read as, and the two ways a command that did not fault ends. -/

namespace Sys2Proof.Machine

/-- The 4-bit code of STATUS.ERR (60_exceptions.md R200). -/
def errCode : ErrCode → BitVec 4
  | .ok => 0
  | .illegalCmd => 1
  | .shiftRange => 2
  | .piDegenerate => 3
  | .xoffUndefined => 4

/-- STATUS as the host reads it: ERR in [3:0], FAULT in [8], BUSERR in [9], the rest 0 (10_state.md R35). -/
def statusWord (st : Status) : Word :=
  (errCode st.err).setWidth 32
    ||| (BitVec.ofBool st.fault).setWidth 32 <<< 8
    ||| (BitVec.ofBool st.busErr).setWidth 32 <<< 9

/-- STATUS.ERR <- code; the sticky bits stay (10_state.md R35). -/
def setErr (e : ErrCode) (s : State) : State := { s with status := { s.status with err := e } }

/-- `status OK`: the end of a command that completed (00_scope.md R18). -/
def complete (s : State) : State := setErr .ok s

end Sys2Proof.Machine
end

