-- ==== Sys2Proof/Machine/Operands.lean ====
section
/-! DEFINITION. Operand forms and the integer primitives of 00_scope.md R13–R15: the shift immediates
and their legal range, the optional phase sample, the 64-bit accumulators as register pairs, and the
flooring shifts. -/

namespace Sys2Proof.Machine

/-- `asr(v, n)` on an exact integer: the floor of v / 2^n (00_scope.md R14). -/
def asr (v : Int) (n : Nat) : Int := v / 2 ^ n

/-- `rshr(v, s) = asr(v +32 2^(s−1), s)`: the bias is added with wrapping, then the shift floors
(42_pll_shift.md R162). -/
def rshr (v : Word) (s : Nat) : Word := (v + BitVec.ofNat 32 (2 ^ (s - 1))).sshiftRight s

/-- The halving of the midpoint estimates, `asr(v, 1)` (42_pll_shift.md R163). -/
def half (v : Word) : Word := v.sshiftRight 1

/-- `mul64(a, b)`: the product of two i32 values as an i64 (43_pll_gain.md R182). -/
def mul64 (a b : Word) : DWord := a.signExtend 64 * b.signExtend 64

/-- A shift immediate is legal: 1 ≤ n ≤ 30 (42_pll_shift.md R161). -/
def shiftLegal (n : Nat) : Bool := decide (shiftMin ≤ n) && decide (n ≤ shiftMax)

/-- Both shifts of a PLLS_UPDATE are legal (42_pll_shift.md R161). -/
def shiftsLegal (sf sp : Nat) : Bool := shiftLegal sf && shiftLegal sp

/-- F = {PLLG_F_HI, PLLG_F_LO} (10_state.md R45). -/
def accF (g : Pllg) : DWord := g.fHi ++ g.fLo

/-- Y = {PLLG_Y_HI, PLLG_Y_LO} (10_state.md R45). -/
def accY (g : Pllg) : DWord := g.yHi ++ g.yLo

/-- The PLLG registers with F and Y stored by halves (10_state.md R45). -/
def withAccs (F Y : DWord) (g : Pllg) : Pllg :=
  { g with fHi := hi32 F, fLo := lo32 F, yHi := hi32 Y, yLo := lo32 Y }

end Sys2Proof.Machine
end

