-- ==== Sys2Proof/Machine/Ops.lean ====
section
/-! DEFINITION. The shared operations: the register map and the one read and the one write of a
register (10_state.md R32), what an error does (60_exceptions.md R203, R204, R207: the block takes no
exception, "the whole effect of an error is the register writes", R212), the results of a command, and
what the RESET input does (70_reset_and_hazards.md R230). -/

namespace Sys2Proof.Machine

/-- The byte offset of a register (10_state.md R32). -/
def regOffset : Reg → BitVec 12
  | .id => 0x000 | .cfg => 0x004 | .status => 0x008 | .cmd => 0x00C
  | .arg0 => 0x010 | .arg1 => 0x014 | .arg2 => 0x018
  | .res0 => 0x020 | .res1 => 0x024 | .fcmd => 0x028 | .beaddr => 0x02C
  | .iirBa0 => 0x040 | .iirBa1 => 0x044 | .iirBa2 => 0x048 | .iirBa3 => 0x04C | .iirBa4 => 0x050
  | .iirYoff => 0x054 | .iirYmin => 0x058 | .iirYmax => 0x05C
  | .iirXy0 => 0x060 | .iirXy1 => 0x064 | .iirXy2 => 0x068 | .iirXy3 => 0x06C | .iirXy4 => 0x070
  | .pllsX => 0x080 | .pllsF => 0x084 | .pllsY => 0x088 | .pllsPh => 0x08C | .pllsFr => 0x090
  | .pllgX => 0x0A0 | .pllgFLo => 0x0A4 | .pllgFHi => 0x0A8 | .pllgYLo => 0x0AC | .pllgYHi => 0x0B0
  | .pllgF0 => 0x0B4 | .pllgY0 => 0x0B8

/-- The control, operand and result registers (10_state.md R32). -/
def controlRegs : List Reg :=
  [.id, .cfg, .status, .cmd, .arg0, .arg1, .arg2, .res0, .res1, .fcmd, .beaddr]

/-- The IIR registers (10_state.md R32). -/
def iirRegs : List Reg :=
  [.iirBa0, .iirBa1, .iirBa2, .iirBa3, .iirBa4, .iirYoff, .iirYmin, .iirYmax,
   .iirXy0, .iirXy1, .iirXy2, .iirXy3, .iirXy4]

/-- The PLL registers (10_state.md R32). -/
def pllRegs : List Reg :=
  [.pllsX, .pllsF, .pllsY, .pllsPh, .pllsFr,
   .pllgX, .pllgFLo, .pllgFHi, .pllgYLo, .pllgYHi, .pllgF0, .pllgY0]

/-- Every register of the map, in the map's order. -/
def allRegs : List Reg := controlRegs ++ iirRegs ++ pllRegs

/-- The register at an offset; an offset that is no register's is reserved (10_state.md R32). A
misaligned offset is no register's. -/
def regAt (off : BitVec 12) : Option Reg := allRegs.find? fun r => regOffset r == off

/-- The access right of a register (10_state.md R32). -/
def regRight : Reg → AccessRight
  | .id => .ro | .cfg => .ro | .status => .ro | .cmd => .command
  | .arg0 => .rw | .arg1 => .rw | .arg2 => .rw
  | .res0 => .ro | .res1 => .ro | .fcmd => .ro | .beaddr => .ro
  | .iirBa0 => .rw | .iirBa1 => .rw | .iirBa2 => .rw | .iirBa3 => .rw | .iirBa4 => .rw
  | .iirYoff => .rw | .iirYmin => .rw | .iirYmax => .rw
  | .iirXy0 => .rw | .iirXy1 => .rw | .iirXy2 => .rw | .iirXy3 => .rw | .iirXy4 => .rw
  | .pllsX => .rw | .pllsF => .rw | .pllsY => .rw | .pllsPh => .ro | .pllsFr => .ro
  | .pllgX => .rw | .pllgFLo => .rw | .pllgFHi => .rw | .pllgYLo => .rw | .pllgYHi => .rw
  | .pllgF0 => .rw | .pllgY0 => .rw

/-- BEADDR as the host reads it: {0^16, SIZE, WR, OFF} (10_state.md R39, 60_exceptions.md R207). -/
def beaddrWord (b : BusErrorRecord) : Word :=
  (0 : BitVec 16) ++ b.size ++ BitVec.ofBool b.wr ++ b.off

/-- `x[NAME]`: the value of a register (00_scope.md R16). It changes nothing (20_memory.md R74). ID and
CFG are hard-wired (10_state.md R33, R34). -/
def readReg (r : Reg) (s : State) : Word :=
  match r with
  | .id => idWord
  | .cfg => cfgWord
  | .status => statusWord s.status
  | .cmd => s.cmd
  | .arg0 => s.arg0
  | .arg1 => s.arg1
  | .arg2 => s.arg2
  | .res0 => s.res0
  | .res1 => s.res1
  | .fcmd => s.fcmd
  | .beaddr => beaddrWord s.beaddr
  | .iirBa0 => s.iir.ba0
  | .iirBa1 => s.iir.ba1
  | .iirBa2 => s.iir.ba2
  | .iirBa3 => s.iir.ba3
  | .iirBa4 => s.iir.ba4
  | .iirYoff => s.iir.yoff
  | .iirYmin => s.iir.ymin
  | .iirYmax => s.iir.ymax
  | .iirXy0 => s.xy.xy0
  | .iirXy1 => s.xy.xy1
  | .iirXy2 => s.xy.xy2
  | .iirXy3 => s.xy.xy3
  | .iirXy4 => s.xy.xy4
  | .pllsX => s.plls.x
  | .pllsF => s.plls.f
  | .pllsY => s.plls.y
  | .pllsPh => s.plls.ph
  | .pllsFr => s.plls.fr
  | .pllgX => s.pllg.x
  | .pllgFLo => s.pllg.fLo
  | .pllgFHi => s.pllg.fHi
  | .pllgYLo => s.pllg.yLo
  | .pllgYHi => s.pllg.yHi
  | .pllgF0 => s.pllg.f0
  | .pllgY0 => s.pllg.y0

/-- A host write of a word to a register that stores what is written: no bit is checked or masked
(20_memory.md R75). A read-only register has no such write: the bus turns it away before
(60_exceptions.md R207), and here nothing is stored. -/
def writeReg (r : Reg) (w : Word) (s : State) : State :=
  match r with
  | .id => s
  | .cfg => s
  | .status => s
  | .cmd => { s with cmd := w }
  | .arg0 => { s with arg0 := w }
  | .arg1 => { s with arg1 := w }
  | .arg2 => { s with arg2 := w }
  | .res0 => s
  | .res1 => s
  | .fcmd => s
  | .beaddr => s
  | .iirBa0 => { s with iir := { s.iir with ba0 := w } }
  | .iirBa1 => { s with iir := { s.iir with ba1 := w } }
  | .iirBa2 => { s with iir := { s.iir with ba2 := w } }
  | .iirBa3 => { s with iir := { s.iir with ba3 := w } }
  | .iirBa4 => { s with iir := { s.iir with ba4 := w } }
  | .iirYoff => { s with iir := { s.iir with yoff := w } }
  | .iirYmin => { s with iir := { s.iir with ymin := w } }
  | .iirYmax => { s with iir := { s.iir with ymax := w } }
  | .iirXy0 => { s with xy := { s.xy with xy0 := w } }
  | .iirXy1 => { s with xy := { s.xy with xy1 := w } }
  | .iirXy2 => { s with xy := { s.xy with xy2 := w } }
  | .iirXy3 => { s with xy := { s.xy with xy3 := w } }
  | .iirXy4 => { s with xy := { s.xy with xy4 := w } }
  | .pllsX => { s with plls := { s.plls with x := w } }
  | .pllsF => { s with plls := { s.plls with f := w } }
  | .pllsY => { s with plls := { s.plls with y := w } }
  | .pllsPh => s
  | .pllsFr => s
  | .pllgX => { s with pllg := { s.pllg with x := w } }
  | .pllgFLo => { s with pllg := { s.pllg with fLo := w } }
  | .pllgFHi => { s with pllg := { s.pllg with fHi := w } }
  | .pllgYLo => { s with pllg := { s.pllg with yLo := w } }
  | .pllgYHi => { s with pllg := { s.pllg with yHi := w } }
  | .pllgF0 => { s with pllg := { s.pllg with f0 := w } }
  | .pllgY0 => { s with pllg := { s.pllg with y0 := w } }

/-- RES0 <- v (10_state.md R37). -/
def setRes0 (v : Word) (s : State) : State := { s with res0 := v }

/-- RES0 <- v; RES1 <- w (10_state.md R37). -/
def setRes01 (v w : Word) (s : State) : State := { s with res0 := v, res1 := w }

/-- The whole IIR configuration (10_state.md R40, R41). -/
def setIir (c : IirCfg) (s : State) : State := { s with iir := c }

/-- The whole IIR state (10_state.md R42). -/
def setXy (v : IirXy) (s : State) : State := { s with xy := v }

/-- The PLLS registers (10_state.md R43, R44). -/
def setPlls (p : Plls) (s : State) : State := { s with plls := p }

/-- The PLLG registers (10_state.md R45). -/
def setPllg (g : Pllg) (s : State) : State := { s with pllg := g }

/-- The host's side. -/
def setHost (h : HostPort) (s : State) : State := { s with host := h }

/-- `raise F(w)` for a fault F of the command word that CMD holds (60_exceptions.md R203): ERR gets the
code, the first fault since reset records its word in FCMD, FAULT becomes and stays 1 (log entries 5
and 10). -/
def raiseFault (e : ErrCode) (s : State) : State :=
  { s with
    status := { s.status with err := e, fault := true }
    fcmd := if s.status.fault then s.fcmd else s.cmd }

/-- `raise E()` for a status error (60_exceptions.md R204): ERR gets the code, nothing else changes. -/
def raiseStatusError (e : ErrCode) (s : State) : State := setErr e s

/-- The SIZE code of an access width (10_state.md R39). For a width that is none of 1, 2, 4 bytes the
code is the free value of index n, one of 3–7 (log entry 3). -/
def sizeCode (size : AccessSize) (n : Nat) : BitVec 3 :=
  match size with
  | .byte => 0
  | .half => 1
  | .word => 2
  | .other => BitVec.ofNat 3 (3 + (Config.freeSizeIndex n).val)

/-- What BEADDR records of a bus-error access (10_state.md R39). -/
def busErrorRecord (off : BitVec 12) (wr : Bool) (size : AccessSize) (n : Nat) : BusErrorRecord :=
  ⟨off, wr, sizeCode size n⟩

/-- A bus error (60_exceptions.md R207): the first since reset is recorded in BEADDR, BUSERR becomes
and stays 1, ERR is not changed (log entry 10). Each record takes a fresh free value (log entry 3). -/
def busError (off : BitVec 12) (wr : Bool) (size : AccessSize) (s : State) : State :=
  if s.status.busErr then s
  else
    { s with
      status := { s.status with busErr := true }
      beaddr := busErrorRecord off wr size s.host.freeIdx
      host := { s.host with freeIdx := s.host.freeIdx + 1 } }

/-- The RESET input driven to a level (70_reset_and_hazards.md R230). While it is asserted, and when it
is released, every register takes its reset value. Driving it low when it is low does nothing. The
host's script and the free values' index are not registers and stay (log entries 3 and 4). -/
def driveReset (level : Bool) (s : State) : State :=
  if level || s.host.resetIn then
    { State.reset with host := { s.host with resetIn := level, rdata := none } }
  else s

end Sys2Proof.Machine
end

