-- ==== Sys2Proof/Machine/Cossin.lean ====
section
/-! DEFINITION. COSSIN, the cosine/sine evaluator (40_cossin.md R112–R117): five steps, each a function. -/

namespace Sys2Proof.Machine

/-- The octant, the three leading bits of the phase (40_cossin.md R112). -/
def octant (p : Word) : BitVec 3 := p.extractLsb' 29 3

/-- The fold: the one's complement of the whole word in an odd octant (40_cossin.md R112). -/
def foldPhase (p : Word) : Word := if (octant p).getLsbD 0 then ~~~p else p

/-- The table index, r[28:22] (40_cossin.md R113). -/
def lutIndex (v : Word) : BitVec 7 := v.extractLsb' 22 7

/-- The residual from the sub-interval midpoint, d = r[21:0] − 2^21 (40_cossin.md R113). -/
def residual (v : Word) : Int := ((v.extractLsb' 0 22).toNat : Int) - 2 ^ 21

/-- The phase delta in radians with 30 fraction bits (40_cossin.md R115). -/
def phaseDelta (d : Int) : Int := asr (d * pi4) 15

/-- c1 = C·2^13 − asr(S·dq, 17) (40_cossin.md R115). -/
def interpCos (c s : BitVec 17) (dq : Int) : Int := (c.toNat : Int) * 2 ^ 13 - asr ((s.toNat : Int) * dq) 17

/-- s1 = S·2^13 + asr(C·dq, 17) (40_cossin.md R115). -/
def interpSin (c s : BitVec 17) (dq : Int) : Int := (s.toNat : Int) * 2 ^ 13 + asr ((c.toNat : Int) * dq) 17

/-- The first-octant pair (c1, s1) of a folded phase (40_cossin.md R113–R115). -/
def firstOctant (v : Word) : Int × Int :=
  let e := lutRead (lutIndex v)
  let dq := phaseDelta (residual v)
  (interpCos e.1 e.2 dq, interpSin e.1 e.2 dq)

/-- g = o xor (o >> 1), the Gray code of the octant (40_cossin.md R116). -/
def grayCode (o : BitVec 3) : BitVec 3 := o ^^^ (o >>> 1)

/-- Step 5: g[0] swaps, then g[1] negates the cosine, then g[2] negates the sine (40_cossin.md R116). -/
def unfoldOctant (o : BitVec 3) (cs : Int × Int) : Int × Int :=
  let g := grayCode o
  let cs := if g.getLsbD 0 then (cs.2, cs.1) else cs
  let cs := if g.getLsbD 1 then (-cs.1, cs.2) else cs
  if g.getLsbD 2 then (cs.1, -cs.2) else cs

/-- The pair (cos_out, sin_out) of a phase, exact (40_cossin.md R117). -/
def cosSinInt (p : Word) : Int × Int := unfoldOctant (octant p) (firstOctant (foldPhase p))

/-- cos_out as an i32 (40_cossin.md R110). -/
def cosOut (p : Word) : Word := BitVec.ofInt 32 (cosSinInt p).1

/-- sin_out as an i32 (40_cossin.md R110). -/
def sinOut (p : Word) : Word := BitVec.ofInt 32 (cosSinInt p).2

/-- COSSIN (40_cossin.md R117). -/
def execCossin (s : State) : Result :=
  .next (complete (setRes01 (cosOut s.arg0) (sinOut s.arg0) s))

end Sys2Proof.Machine
end

