-- ==== Sys2Proof/Machine/Binary32.lean ====
section
/-! DEFINITION. The binary32 arithmetic of the IIR unit (00_scope.md R19, 41_biquad_iir.md R130–R134).

Every finite binary32 value is a whole number of units of 2^-149, the least subnormal. So `fval` gives a
value as an integer, an operation computes its exact result as a fraction of such units, and `roundMag`
rounds it once. What IEEE 754 says of the sign of a zero result, of the infinities and of where overflow
begins is log entry 9. -/

namespace Sys2Proof.Machine

/-- The canonical quiet NaN (41_biquad_iir.md R133). -/
def qNaN : Word := 0x7FC00000

/-- The pattern of 1.0 (00_scope.md R19). -/
def fOne : Word := 0x3F800000

/-- The pattern of 2.0. -/
def fTwo : Word := 0x40000000

/-- The sign, bit 31 (41_biquad_iir.md R130). -/
def fsign (a : Word) : Bool := a.getLsbD 31

/-- The biased exponent, bits [30:23] (41_biquad_iir.md R130). -/
def fexp (a : Word) : Nat := (a.extractLsb' 23 8).toNat

/-- The fraction, bits [22:0] (41_biquad_iir.md R130). -/
def ffrac (a : Word) : Nat := (a.extractLsb' 0 23).toNat

/-- A NaN pattern: exponent 255 and a fraction that is not 0. -/
def isNaN (a : Word) : Bool := fexp a == 255 && ffrac a != 0

/-- ±∞: exponent 255 and fraction 0. -/
def isInf (a : Word) : Bool := fexp a == 255 && ffrac a == 0

/-- ±0. -/
def isZero (a : Word) : Bool := fexp a == 0 && ffrac a == 0

/-- Finite: not ±∞ and not a NaN. -/
def isFin (a : Word) : Bool := fexp a != 255

/-- The magnitude in units of 2^-149: a subnormal (exponent 0) is its fraction, used at its value
(41_biquad_iir.md R132); a normal one is 2^23 plus its fraction, doubled for each exponent above 1. For
±∞ the same formula gives 2^277, above every finite magnitude, so comparisons may use it. -/
def fmag (a : Word) : Nat :=
  if fexp a = 0 then ffrac a else (2 ^ 23 + ffrac a) * 2 ^ (fexp a - 1)

/-- The value in units of 2^-149. -/
def fval (a : Word) : Int := if fsign a then -(fmag a : Int) else (fmag a : Int)

/-- A sign put on a 31-bit magnitude pattern. -/
def withSign (neg : Bool) (m : Word) : Word := if neg then m ||| 0x80000000 else m

/-- ±0. -/
def fzero (neg : Bool) : Word := withSign neg 0

/-- ±∞. -/
def finf (neg : Bool) : Word := withSign neg 0x7F800000

/-- n / d rounded to an integer, to nearest, ties to even; d is positive. -/
def roundHalfEven (n d : Nat) : Nat :=
  let q := n / d
  let r := n % d
  if 2 * r < d then q else if d < 2 * r then q + 1 else q + q % 2

/-- The binade of n / d units: 0 up to 2^24 units, where patterns are 1 unit apart, and one more for
each doubling. -/
def binade (n d : Nat) : Nat := Nat.log2 (n / d) - 23

/-- The magnitude n / d units rounded to binary32, to nearest, ties to even (41_biquad_iir.md R131), as a
31-bit pattern; overflow gives ∞ (log entry 9). In binade k the patterns are 2^k units apart, and the
pattern of m · 2^k units is k · 2^23 + m: a carry out of the fraction moves into the exponent by itself. -/
def roundMag (n d : Nat) : Word :=
  let k := binade n d
  let p := k * 2 ^ 23 + roundHalfEven n (d * 2 ^ k)
  if p < 0x7F800000 then BitVec.ofNat 32 p else 0x7F800000

/-- `fadd` (41_biquad_iir.md R131, R133). -/
def fadd (a b : Word) : Word :=
  if isNaN a || isNaN b then qNaN
  else if isInf a then (if isInf b && (fsign a != fsign b) then qNaN else a)
  else if isInf b then b
  else
    let v := fval a + fval b
    if v = 0 then fzero (fsign a && fsign b)
    else withSign (decide (v < 0)) (roundMag v.natAbs 1)

/-- The opposite sign. -/
def fneg (a : Word) : Word := a ^^^ 0x80000000

/-- `fsub`: the sum with the second operand's sign turned over (41_biquad_iir.md R131). -/
def fsub (a b : Word) : Word := fadd a (fneg b)

/-- `fmul` (41_biquad_iir.md R131, R133): 0 · ∞ is a NaN. -/
def fmul (a b : Word) : Word :=
  let neg := fsign a != fsign b
  if isNaN a || isNaN b then qNaN
  else if isInf a || isInf b then (if isZero a || isZero b then qNaN else finf neg)
  else withSign neg (roundMag (fmag a * fmag b) (2 ^ 149))

/-- `fdiv` (41_biquad_iir.md R131, R133): 0/0 and ∞/∞ are NaNs, x/0 with x ≠ 0 is ±∞. -/
def fdiv (a b : Word) : Word :=
  let neg := fsign a != fsign b
  if isNaN a || isNaN b then qNaN
  else if isInf a then (if isInf b then qNaN else finf neg)
  else if isInf b then fzero neg
  else if isZero b then (if isZero a then qNaN else finf neg)
  else withSign neg (roundMag (fmag a * 2 ^ 149) (fmag b))

/-- `fabs`: bit 31 cleared, on NaNs too (41_biquad_iir.md R134). -/
def fabs (a : Word) : Word := a &&& 0x7FFFFFFF

/-- `fcopysign(a, b)`: a with bit 31 of b, on NaNs too (41_biquad_iir.md R134). -/
def fcopysign (a b : Word) : Word := (a &&& 0x7FFFFFFF) ||| (b &&& 0x80000000)

/-- `flt`: the quiet a < b; false for a NaN, and −0 equals +0 (41_biquad_iir.md R134). -/
def flt (a b : Word) : Bool := !isNaN a && !isNaN b && decide (fval a < fval b)

/-- `fgt`: the quiet a > b; false for a NaN, and −0 equals +0 (41_biquad_iir.md R134). -/
def fgt (a b : Word) : Bool := !isNaN a && !isNaN b && decide (fval b < fval a)

/-- The epsilon test: |v| < 2^-23 (41_biquad_iir.md R134). -/
def small (v : Word) : Bool := flt (fabs v) epsWord

/-- A float literal n / d of the assembler, rounded to nearest (30_encoding.md R102). -/
def floatLit (neg : Bool) (n d : Nat) : Word := withSign neg (roundMag (n * 2 ^ 149) d)

end Sys2Proof.Machine
end

