-- ==== Sys2Proof/Machine/Iir.lean ====
section
/-! DEFINITION. The IIR unit: IIR_UPDATE with and without hold, IIR_SET_PI, IIR_SET_XOFF, IIR_GET_XOFF
and IIR_GET_K (41_biquad_iir.md R135–R152). -/

namespace Sys2Proof.Machine

/-- The state shift, with the new input in slot 0 (41_biquad_iir.md R135). -/
def shiftIn (x0 : Word) (v : IirXy) : IirXy := ⟨x0, v.xy0, v.xy1, v.xy2, v.xy3⟩

/-- The multiply-accumulate over the shifted slots, a left fold from y_offset in index order, ten
roundings (41_biquad_iir.md R136). -/
def macc (c : IirCfg) (v : IirXy) : Word :=
  [(c.ba0, v.xy0), (c.ba1, v.xy1), (c.ba2, v.xy2), (c.ba3, v.xy3), (c.ba4, v.xy4)].foldl
    (fun acc p => fadd acc (fmul p.1 p.2)) c.yoff

/-- `Clamp(y)`: first the upper bound, then the lower (41_biquad_iir.md R137). A NaN y passes inverted
bounds too (log entry 11). -/
def clamp (lo hi y : Word) : Word :=
  let t := if fgt y hi then hi else y
  if flt t lo then lo else t

/-- The clamped output of an update over the shifted slots: the replayed output when held, else the
multiply-accumulate (41_biquad_iir.md R138, R139). -/
def iirOutput (hold : Bool) (c : IirCfg) (v : IirXy) : Word :=
  clamp c.ymin c.ymax (if hold then v.xy3 else macc c v)

/-- One update of the IIR state (41_biquad_iir.md R139): shift, compute, store in the middle slot. -/
def iirAdvance (hold : Bool) (x0 : Word) (c : IirCfg) (v : IirXy) : IirXy :=
  { shiftIn x0 v with xy2 := iirOutput hold c (shiftIn x0 v) }

/-- IIR_UPDATE on the machine: the new slots, and the output in RES0 (41_biquad_iir.md R139). -/
def iirUpdate (hold : Bool) (s : State) : State :=
  let v := iirAdvance hold s.arg0 s.iir s.xy
  complete (setRes0 v.xy2 (setXy v s))

/-- The gain limit c of the PI synthesis: 1 for a small g, else 1 / (1 + ki/g) (41_biquad_iir.md R143). -/
def piBlend (ki g : Word) : Word :=
  if small g then fOne else fdiv fOne (fadd fOne (fdiv ki g))

/-- What the PI synthesis gives (41_biquad_iir.md R143). -/
structure PiResult where
  b0 : Word
  b1 : Word
  a1 : Word
  degenerate : Bool
  deriving DecidableEq, Repr

/-- `PiCoeffs(kp, ki, g)` (41_biquad_iir.md R143). A NaN sum is not degenerate, for ki = ±0 either (log
entry 6). -/
def piCoeffs (kp ki g : Word) : PiResult :=
  let ki := fcopysign ki kp
  let g := fcopysign g kp
  let c := piBlend ki g
  let a1 := fsub (fmul fTwo c) fOne
  let b0 := fadd (fmul ki c) kp
  let b1 := fsub (fmul ki c) (fmul a1 kp)
  ⟨b0, b1, a1, small (fadd b0 b1)⟩

/-- The configuration with synthesised taps, b2 = a2 = +0.0 (41_biquad_iir.md R144). -/
def withPi (r : PiResult) (c : IirCfg) : IirCfg :=
  { c with ba0 := r.b0, ba1 := r.b1, ba2 := 0, ba3 := r.a1, ba4 := 0 }

/-- `DcGain()`: (b0 + b1) + b2, two roundings (41_biquad_iir.md R150). -/
def dcGain (c : IirCfg) : Word := fadd (fadd c.ba0 c.ba1) c.ba2

/-- IIR_UPDATE, H = 0 (41_biquad_iir.md R139). -/
def execIirUpdate (s : State) : Result := .next (iirUpdate false s)

/-- IIR_UPDATE, H = 1 (41_biquad_iir.md R139). -/
def execIirUpdateHold (s : State) : Result := .next (iirUpdate true s)

/-- IIR_SET_PI (41_biquad_iir.md R144): PI_DEGENERATE leaves the taps (60_exceptions.md R205). -/
def execIirSetpi (s : State) : Result :=
  let r := piCoeffs s.arg0 s.arg1 s.arg2
  .next (if r.degenerate then raiseStatusError .piDegenerate s
    else complete (setIir (withPi r s.iir) s))

/-- IIR_SET_XOFF (41_biquad_iir.md R148). -/
def execIirSetxoff (s : State) : Result :=
  .next (complete (setIir { s.iir with yoff := fmul s.arg0 (dcGain s.iir) } s))

/-- IIR_GET_XOFF (41_biquad_iir.md R149): XOFF_UNDEFINED leaves RES0 (60_exceptions.md R206). -/
def execIirGetxoff (s : State) : Result :=
  let k := dcGain s.iir
  .next (if small k then raiseStatusError .xoffUndefined s
    else complete (setRes0 (fdiv s.iir.yoff k) s))

/-- IIR_GET_K (41_biquad_iir.md R150). -/
def execIirGetk (s : State) : Result := .next (complete (setRes0 (dcGain s.iir) s))

end Sys2Proof.Machine
end

