-- ==== Sys2Proof/Machine/PllGain.lean ====
section
/-! DEFINITION. PLLG, the general-gain noise-shaped PLL (43_pll_gain.md R180–R187). -/

namespace Sys2Proof.Machine

/-- One update with a present sample xin and gain k (43_pll_gain.md R183): df is applied to F before and
after the phase advance, dy to Y before and after the visible phase is taken. With k = 0 Y still advances
by F (log entry 12). -/
def pllgPresent (xin k : Word) (g : Pllg) : Pllg :=
  let dx := xin - g.x
  let df := mul64 (dx - hi32 (accF g)) k
  let F1 := accF g + df
  let Y1 := accY g + F1
  let F2 := F1 + df
  let dy := mul64 (xin - hi32 Y1) k
  let Y2 := Y1 + dy
  let yo := hi32 Y2
  let Y3 := Y2 + dy
  withAccs F2 Y3 { g with x := xin, f0 := yo - g.y0, y0 := yo }

/-- One update with a missing sample (43_pll_gain.md R185): Y advances by F, x and y0 by f0. -/
def pllgMissing (g : Pllg) : Pllg :=
  withAccs (accF g) (accY g + accF g) { g with x := g.x + g.f0, y0 := g.y0 + g.f0 }

/-- PLLG_UPDATE with a present sample, P = 1 (43_pll_gain.md R186). RES0 and RES1 keep their values. -/
def execPllgUpdate (s : State) : Result :=
  .next (complete (setPllg (pllgPresent s.arg0 s.arg1 s.pllg) s))

/-- PLLG_UPDATE with a missing sample, P = 0 (43_pll_gain.md R186). -/
def execPllgUpdateMiss (s : State) : Result :=
  .next (complete (setPllg (pllgMissing s.pllg) s))

/-- PLLG_READ (43_pll_gain.md R187): RES0 = phase, RES1 = frequency. -/
def execPllgRead (s : State) : Result :=
  .next (complete (setRes01 s.pllg.y0 s.pllg.f0 s))

end Sys2Proof.Machine
end

