-- ==== Sys2Proof/Machine/PllShift.lean ====
section
/-! DEFINITION. PLLS, the shift-gain PLL (42_pll_shift.md R160–R168). All sums wrap (00_scope.md R13). -/

namespace Sys2Proof.Machine

/-- The frequency step: the new x, f and the midpoint frequency fm, from a present sample
(42_pll_shift.md R164) or a missing one (R165). -/
def pllsFreqStep (sample : Option Word) (sf : Nat) (p : Plls) : Word × Word × Word :=
  match sample with
  | some xin =>
    let dx := xin - p.x
    let df := rshr (dx - p.f) sf
    let f := p.f + df
    (xin, f, f - half df)
  | none => (p.x + p.f, p.f, p.f)

/-- The phase step, common to both cases, and the latched estimates (42_pll_shift.md R166, R167). -/
def pllsPhaseStep (x f fm : Word) (sp : Nat) (p : Plls) : Plls :=
  let y := p.y + fm
  let dy := rshr (x - y) sp
  let y := y + dy
  ⟨x, f, y, y - half dy, fm + dy⟩

/-- One update of the PLLS registers (42_pll_shift.md R167). -/
def pllsAdvance (sample : Option Word) (sf sp : Nat) (p : Plls) : Plls :=
  let q := pllsFreqStep sample sf p
  pllsPhaseStep q.1 q.2.1 q.2.2 sp p

/-- PLLS_UPDATE on the machine (42_pll_shift.md R167): an illegal shift raises SHIFT_RANGE before any
state is read or written (60_exceptions.md R208). -/
def pllsUpdate (sample : Option Word) (sf sp : Nat) (s : State) : State :=
  if shiftsLegal sf sp then
    let p := pllsAdvance sample sf sp s.plls
    complete (setRes01 p.ph p.fr (setPlls p s))
  else raiseFault .shiftRange s

/-- PLLS_UPDATE with a present sample, P = 1 (42_pll_shift.md R167). -/
def execPllsUpdate (sf sp : Nat) (s : State) : Result := .next (pllsUpdate (some s.arg0) sf sp s)

/-- PLLS_UPDATE with a missing sample, P = 0 (42_pll_shift.md R167). -/
def execPllsUpdateMiss (sf sp : Nat) (s : State) : Result := .next (pllsUpdate none sf sp s)

/-- PLLS_READ (42_pll_shift.md R168). -/
def execPllsRead (s : State) : Result :=
  .next (complete (setRes01 s.plls.ph s.plls.fr s))

end Sys2Proof.Machine
end

