-- ==== Sys2Proof/Machine/Dispatch.lean ====
section
/-! DEFINITION. The one dispatch of a decoded command to its meaning (30_encoding.md R90, R93). -/

namespace Sys2Proof.Machine

def exec (i : Instr) (s : State) : Host.Outcome State Fault Refusal :=
  match i with
  | .cossin => Sys2Proof.Machine.execCossin s
  | .iirUpdate => Sys2Proof.Machine.execIirUpdate s
  | .iirUpdateHold => Sys2Proof.Machine.execIirUpdateHold s
  | .iirSetpi => Sys2Proof.Machine.execIirSetpi s
  | .iirSetxoff => Sys2Proof.Machine.execIirSetxoff s
  | .iirGetxoff => Sys2Proof.Machine.execIirGetxoff s
  | .iirGetk => Sys2Proof.Machine.execIirGetk s
  | .pllsUpdate sf sp => Sys2Proof.Machine.execPllsUpdate sf sp s
  | .pllsUpdateMiss sf sp => Sys2Proof.Machine.execPllsUpdateMiss sf sp s
  | .pllsRead => Sys2Proof.Machine.execPllsRead s
  | .pllgUpdate => Sys2Proof.Machine.execPllgUpdate s
  | .pllgUpdateMiss => Sys2Proof.Machine.execPllgUpdateMiss s
  | .pllgRead => Sys2Proof.Machine.execPllgRead s

end Sys2Proof.Machine
end

