-- ==== Sys2Proof/Machine/Bus.lean ====
section
/-! DEFINITION. The host bus (20_memory.md R70–R86): which accesses are admitted, what a read and a write
do, and the execution of a command word (30_encoding.md R90). One call of `serve` is one event. -/

namespace Sys2Proof.Machine

/-- The offset in the window of a host byte address, for a window at base (20_memory.md R70). An address
outside the window is no access of the block. BASE is an argument: the spec leaves it open (log entry 7). -/
def windowOffset (base addr : Nat) : Option (BitVec 12) :=
  if base ≤ addr ∧ addr < base + 4096 then some (BitVec.ofNat 12 (addr - base)) else none

/-- The event of a host read of `size` at a host byte address (20_memory.md R86, `MemRead`). -/
def memRead (base addr : Nat) (size : AccessSize) : Option HostEvent :=
  (windowOffset base addr).map fun off => .read off size

/-- The event of a host write of `size` at a host byte address (20_memory.md R86, `MemWrite`). -/
def memWrite (base addr : Nat) (size : AccessSize) (data : Word) : Option HostEvent :=
  (windowOffset base addr).map fun off => .write off size data

/-- The register an admitted read reaches: 32 bits wide, aligned, at a register of the map
(20_memory.md R72, R73, R86). -/
def readTarget (off : BitVec 12) (size : AccessSize) : Option Reg :=
  if size = .word ∧ off.extractLsb' 0 2 = 0 then regAt off else none

/-- The register an admitted write reaches: as a read, and not read-only (20_memory.md R75, R86). -/
def writeTarget (off : BitVec 12) (size : AccessSize) : Option Reg :=
  (readTarget off size).filter fun r => regRight r != .ro

/-- The data the bus returns for the access just served. -/
def setRdata (d : Option Word) (s : State) : State := { s with host := { s.host with rdata := d } }

/-- A host read (20_memory.md R86): the register's value, or a bus error that returns 0x00000000. -/
def busRead (off : BitVec 12) (size : AccessSize) (s : State) : State :=
  match readTarget off size with
  | some r => setRdata (some (readReg r s)) s
  | none => setRdata (some 0) (busError off false size s)

/-- The execution of a word written to CMD (30_encoding.md R90): CMD holds it, then it is decoded, and
its command runs, or ILLEGAL_CMD is raised (60_exceptions.md R202). -/
def execWord (w : Word) (s : State) : Result :=
  let s := { s with cmd := w }
  match decode w with
  | .ok i => exec i s
  | .reject _ => .next (raiseFault .illegalCmd s)

/-- A host write (20_memory.md R86): it stores, or executes a command, or is a bus error that stores
nothing. -/
def busWrite (off : BitVec 12) (size : AccessSize) (w : Word) (s : State) : Result :=
  let s := setRdata none s
  match writeTarget off size with
  | some .cmd => execWord w s
  | some r => .next (writeReg r w s)
  | none => .next (busError off true size s)

/-- One event of the host or the platform. An access while RESET is asserted is a step the model lacks
(70_reset_and_hazards.md R232). -/
def serve (e : HostEvent) (s : State) : Result :=
  match e with
  | .reset level => .next (driveReset level s)
  | .read off size => if s.host.resetIn then .refused .accessDuringReset else .next (busRead off size s)
  | .write off size w => if s.host.resetIn then .refused .accessDuringReset else busWrite off size w s

/-- The rest of the script once its first event is taken. -/
def setScript (es : List HostEvent) (s : State) : State := { s with host := { s.host with script := es } }

/-- The host's next event is served, in the order the host issues them (20_memory.md R81). With nothing
left to serve the block holds its registers (60_exceptions.md R219; log entry 1). -/
def serveNext (s : State) : Result :=
  match s.host.script with
  | [] => .next s
  | e :: es => serve e (setScript es s)

/-- The bus access that makes the block execute a word: a 32-bit write to CMD (30_encoding.md R90). -/
def commandWrite (w : Word) : HostEvent := .write (regOffset .cmd) .word w

/-- The state in which the host's next access writes w to CMD, with RESET released (log entry 1). -/
def placeCommand (w : Word) (s : State) : State :=
  { s with host := { s.host with script := commandWrite w :: s.host.script, resetIn := false } }

end Sys2Proof.Machine
end

