-- ==== Sys2Proof/Machine/Step.lean ====
section
/-! DEFINITION. One step of the machine: the host's next event, served to its end (20_memory.md R80, R81).
The block fetches nothing (20_memory.md R84): a command comes from the host's write to CMD. -/

namespace Sys2Proof.Machine

/-- One step. -/
def step (s : State) : Host.Outcome State Fault Refusal := serveNext s

/-- The state with an instruction placed where the next step takes it from: the host's next access is
the write of its word to CMD (log entry 1). Bits at and above nbits are 0. -/
def State.withFetchWord (s : State) (nbits w : Nat) : State :=
  placeCommand (BitVec.ofNat 32 (w % 2 ^ nbits)) s

end Sys2Proof.Machine
end

