-- ==== Sys2Proof/Machine/Asm.lean ====
section
/-! DEFINITION. The assembler's statements and pseudo-instructions (30_encoding.md R102, R103) as the
bus accesses they stand for. They are notation: the block sees only the accesses. -/

namespace Sys2Proof.Machine

/-- A statement of the assembly language (30_encoding.md R102). -/
inductive Stmt where
  /-- `wr REG, imm32`, the register by name. -/
  | wr (r : Reg) (imm : Word)
  /-- `wr 0xNNN, imm32`, the register by offset. -/
  | wrAt (off : BitVec 12) (imm : Word)
  /-- `rd REG`. -/
  | rd (r : Reg)
  /-- `rd 0xNNN`. -/
  | rdAt (off : BitVec 12)
  /-- A command mnemonic. -/
  | command (i : Instr)
  /-- `cmd imm32`, any raw word. -/
  | raw (w : Word)
  deriving DecidableEq, Repr

/-- The one bus access of a statement (30_encoding.md R102). -/
def stmtEvent : Stmt → HostEvent
  | .wr r imm => .write (regOffset r) .word imm
  | .wrAt off imm => .write off .word imm
  | .rd r => .read (regOffset r) .word
  | .rdAt off => .read off .word
  | .command i => commandWrite (encode i)
  | .raw w => commandWrite w

/-- The pseudo-instructions (30_encoding.md R103). -/
inductive Pseudo where
  | cossinP (p : Word)
  | pllsStep (x : Word) (sf sp : Nat)
  | pllgStep (x k : Word)
  | iirStep (x : Word) (hold : Bool)
  | iirPi (kp ki g : Word)
  deriving DecidableEq, Repr

/-- The statements a pseudo-instruction expands to, in order (30_encoding.md R103). -/
def expandPseudo : Pseudo → List Stmt
  | .cossinP p => [.wr .arg0 p, .command .cossin]
  | .pllsStep x sf sp => [.wr .arg0 x, .command (.pllsUpdate sf sp)]
  | .pllgStep x k => [.wr .arg0 x, .wr .arg1 k, .command .pllgUpdate]
  | .iirStep x hold => [.wr .arg0 x, .command (if hold then .iirUpdateHold else .iirUpdate)]
  | .iirPi kp ki g => [.wr .arg0 kp, .wr .arg1 ki, .wr .arg2 g, .command .iirSetpi]

/-- The host script of a list of statements. -/
def scriptOf (p : List Stmt) : List HostEvent := p.map stmtEvent

end Sys2Proof.Machine
end

