-- ==== Sys2Proof/Safety.lean ====
section
/-! DEFINITION. The terms the claims use: which words fault, what a clean run is, what the error
registers must say of the past, and which registers each command may write. -/

namespace Sys2Proof.Machine

/-- The instruction is a PLLS_UPDATE with a shift outside [1, 30] (42_pll_shift.md R161). -/
def badShift : Instr → Bool
  | .pllsUpdate sf sp => !shiftsLegal sf sp
  | .pllsUpdateMiss sf sp => !shiftsLegal sf sp
  | _ => false

/-- The word is one that a fault can name: illegal, or a PLLS_UPDATE with an illegal shift
(60_exceptions.md R200, R203). -/
def faultingWord (w : Word) : Bool :=
  match decode w with
  | .reject _ => true
  | .ok i => badShift i

/-- A BEADDR record names an access that is a bus error: not 4 bytes, misaligned, at a reserved offset,
or a write to a read-only register (60_exceptions.md R207). -/
def recordsBusError (b : BusErrorRecord) : Bool :=
  b.size != 2 ||
    match regAt b.off with
    | none => true
    | some r => b.wr && regRight r == .ro

/-- What STATUS.ERR says fits the word that CMD holds (60_exceptions.md R200). CMD = 0 beside OK is the
state after reset. -/
def errFits (e : ErrCode) (w : Word) : Bool :=
  match e with
  | .ok => w == 0 || !faultingWord w
  | .illegalCmd => (decode w).instr?.isNone
  | .shiftRange => (decode w).instr?.any badShift
  | .piDegenerate => decode w == .ok .iirSetpi
  | .xoffUndefined => decode w == .ok .iirGetxoff

/-- What the error registers say of the past (10_state.md R35, R38, R39; 60_exceptions.md R200–R207),
and what RESET does while it is asserted (70_reset_and_hazards.md R230). -/
structure Bookkeeping (s : State) : Prop where
  /-- FCMD reads 0 until the first fault. -/
  noFaultWord : s.status.fault = false → s.fcmd = 0
  /-- After it, FCMD holds a word that faults. -/
  faultWord : s.status.fault = true → faultingWord s.fcmd = true
  /-- BEADDR reads 0 until the first bus error. -/
  noBusError : s.status.busErr = false → s.beaddr = ⟨0, false, 0⟩
  /-- After it, BEADDR names an access that is a bus error. -/
  busError : s.status.busErr = true → recordsBusError s.beaddr = true
  /-- ERR fits the last command word. -/
  errOfCmd : errFits s.status.err s.cmd = true
  /-- A fault code stands only beside the sticky bit. -/
  faultSticks : s.status.err = .illegalCmd ∨ s.status.err = .shiftRange → s.status.fault = true
  /-- Under RESET every register holds its reset value. -/
  heldInReset : s.host.resetIn = true → ∀ r, readReg r s = readReg r State.reset

/-- No fault and no bus error since reset: the two sticky bits a host checks (60_exceptions.md R203, R207). -/
def Clean (s : State) : Prop := s.status.fault = false ∧ s.status.busErr = false

/-- An event that breaks no contract: an admitted access, and where it writes CMD, of a word that does
not fault (60_exceptions.md R201). -/
def goodEvent : HostEvent → Bool
  | .reset _ => false
  | .read off size => (readTarget off size).isSome
  | .write off size w =>
    match writeTarget off size with
    | some .cmd => !faultingWord w
    | some _ => true
    | none => false

/-- A run that serves k events and is clean after each. -/
def SafeRun (k : Nat) (s : State) : Prop :=
  ∀ j ≤ k, ∃ t, Host.Core.run core j s = .next t ∧ Clean t

/-- The registers a command may write when it completes, beside STATUS.ERR (30_encoding.md R93, R101;
41_biquad_iir.md R139, R144, R148; 42_pll_shift.md R167; 43_pll_gain.md R186). -/
def commandDests : Instr → List Reg
  | .cossin => [.res0, .res1]
  | .iirUpdate => [.iirXy0, .iirXy1, .iirXy2, .iirXy3, .iirXy4, .res0]
  | .iirUpdateHold => [.iirXy0, .iirXy1, .iirXy2, .iirXy3, .iirXy4, .res0]
  | .iirSetpi => [.iirBa0, .iirBa1, .iirBa2, .iirBa3, .iirBa4]
  | .iirSetxoff => [.iirYoff]
  | .iirGetxoff => [.res0]
  | .iirGetk => [.res0]
  | .pllsUpdate _ _ => [.pllsX, .pllsF, .pllsY, .pllsPh, .pllsFr, .res0, .res1]
  | .pllsUpdateMiss _ _ => [.pllsX, .pllsF, .pllsY, .pllsPh, .pllsFr, .res0, .res1]
  | .pllsRead => [.res0, .res1]
  | .pllgUpdate => [.pllgX, .pllgFLo, .pllgFHi, .pllgYLo, .pllgYHi, .pllgF0, .pllgY0]
  | .pllgUpdateMiss => [.pllgX, .pllgYLo, .pllgYHi, .pllgY0]
  | .pllgRead => [.res0, .res1]

/-- Everything a command leaves alone when it goes from s to t: every register but its destinations
and STATUS, the sticky bits, and the host's side. -/
def KeepsAllBut (dests : List Reg) (s t : State) : Prop :=
  (∀ r, r ≠ .status → r ∉ dests → readReg r t = readReg r s) ∧
    t.status.fault = s.status.fault ∧ t.status.busErr = s.status.busErr ∧ t.host = s.host

/-- An outcome with the state of a next state changed by f. -/
def mapNext (f : State → State) : Result → Result
  | .next t => .next (f t)
  | .fault r => .fault r
  | .refused r => .refused r

/-- r is the binary32 value of the exact n / d units (d positive) rounded to nearest, ties to even: no
finite value is nearer, a tie is broken to the even pattern, and at and above half a step past the
greatest finite value the result is ∞ (41_biquad_iir.md R131; where overflow begins is log entry 9). -/
def RoundsTo (r : Word) (n d : Int) : Prop :=
  (isFin r = true ∧ |n| < (2 ^ 25 - 1) * 2 ^ 252 * d ∧
    ∀ q, isFin q = true →
      |fval r * d - n| ≤ |fval q * d - n| ∧
        (|fval r * d - n| = |fval q * d - n| → fval q ≠ fval r → r.getLsbD 0 = false)) ∨
  (r = finf (decide (n < 0)) ∧ (2 ^ 25 - 1) * 2 ^ 252 * d ≤ |n|)

/-- The event is the RESET input being driven. -/
def isResetEvent : HostEvent → Bool
  | .reset _ => true
  | .read _ _ => false
  | .write _ _ _ => false

/-- The opcode values the map leaves reserved (30_encoding.md R94). -/
def reservedOpValue (n : Nat) : Bool :=
  n == 0x00 || (0x02 ≤ n && n ≤ 0x0F) || (0x15 ≤ n && n ≤ 0x1F) || (0x22 ≤ n && n ≤ 0x2F)
    || (0x32 ≤ n && n ≤ 0xFF)

/-- The offsets, all 4-aligned, that the map leaves reserved (10_state.md R32). -/
def reservedOffset (n : Nat) : Bool :=
  n == 0x01C || (0x030 ≤ n && n ≤ 0x03C) || (0x074 ≤ n && n ≤ 0x07C) || (0x094 ≤ n && n ≤ 0x09C)
    || (0x0BC ≤ n && n ≤ 0xFFC)

end Sys2Proof.Machine
end

