-- ==== Sys2Proof/Certificates/Slice0/Obligations.lean ====
section
/-! DEFINITION. The statements for the provers, grouped as the spec's files are. Each docstring names the
rule it formalises; a rule's own words stand in OBLIGATIONS.json. -/

open Sys2Proof Sys2Proof.Machine

/-! ### Encoding (30_encoding.md) -/

/-- A word written out from R93 for each family decodes to its command. -/
def Obligations.WrittenOutWordsDecode : Prop :=
  decode 0x00000001#32 = .ok .cossin ∧
  decode 0x02000010#32 = .ok .iirUpdateHold ∧
  decode 0x00000011#32 = .ok .iirSetpi ∧
  decode 0x01040820#32 = .ok (.pllsUpdate 8 4) ∧
  decode 0x00040820#32 = .ok (.pllsUpdateMiss 8 4) ∧
  decode 0x01000030#32 = .ok .pllgUpdate ∧
  decode 0x00000031#32 = .ok .pllgRead

/-- R91, R93, R95: decoding the word of any well-formed instruction gives it back, from the word and from
its byte lanes. -/
def Obligations.DecodeOfEncodeIsTheInstruction : Prop :=
  ∀ i : Instr, i.wf = true → decode (encode i) = .ok i ∧ decodeLanes (lanesOf (encode i)) = .ok i

/-- R92: a word that decodes is the word of its instruction, which is well-formed: no bit is dropped. -/
def Obligations.EncodeOfDecodeIsTheWord : Prop :=
  ∀ (w : Word) (i : Instr), decode w = .ok i → i.wf = true ∧ encode i = w

/-- R93: the rows are disjoint, their union is what Decode accepts, and a decoded word lies in the row of
its instruction. -/
def Obligations.RowsAreDisjointAndCoverDecode : Prop :=
  (∀ r ∈ opRows, ∀ q ∈ opRows, r ≠ q → ∀ w, ¬ (r.admits w = true ∧ q.admits w = true)) ∧
  (∀ w, (∃ r ∈ opRows, r.admits w = true) ↔ ∃ i, decode w = .ok i) ∧
  (∀ w i, decode w = .ok i → rowOf i ∈ opRows ∧ (rowOf i).admits w = true)

/-- R94: thirteen rows, ten opcodes, 246 reserved values, each of which decodes as ILLEGAL whatever the
other bits are; and a value that is not reserved is some row's. -/
def Obligations.ReservedOpcodesAreIllegal : Prop :=
  opRows.length = 13 ∧
  ((opRows.map fun r => opField r.pattern).dedup).length = 10 ∧
  ((List.range 256).filter reservedOpValue).length = 246 ∧
  (∀ w, reservedOpValue (opField w).toNat = true → decode w = .reject .reservedOpcode) ∧
  (∀ b : Byte, reservedOpValue b.toNat = false → ∃ r ∈ opRows, opField r.pattern = b)

/-- R95: only PLLS_UPDATE admits the shift fields, and it reads them as unsigned 5-bit numbers. -/
def Obligations.ShiftFieldsBelongToPllsUpdate : Prop :=
  ∀ (w : Word) (i : Instr), decode w = .ok i →
    (opField w = 0x20 →
      i = (if w.toNat / 2 ^ 24 % 2 = 1 then .pllsUpdate (w.toNat / 2 ^ 8 % 2 ^ 5) (w.toNat / 2 ^ 16 % 2 ^ 5)
        else .pllsUpdateMiss (w.toNat / 2 ^ 8 % 2 ^ 5) (w.toNat / 2 ^ 16 % 2 ^ 5))) ∧
    (opField w ≠ 0x20 → w.toNat / 2 ^ 8 % 2 ^ 5 = 0 ∧ w.toNat / 2 ^ 16 % 2 ^ 5 = 0)

/-! ### The step (20_memory.md, 30_encoding.md R90) -/

/-- R90: the write of a word to CMD runs the command it decodes to, with CMD holding the word and the
event taken off the script; the event and the returned data are the model's own (log entries 1, 2). -/
def Obligations.StepRunsTheDecodedCommand : Prop :=
  ∀ (s : State) (w : Word) (i : Instr) (es : List HostEvent),
    s.host.script = .write 0x00C .word w :: es → s.host.resetIn = false → decode w = .ok i →
      step s = exec i { s with cmd := w, host := { s.host with script := es, rdata := none } }

/-- R90: no other access starts a command: CMD, the results, ERR, FAULT, FCMD and the latches, which only
commands write, stay. -/
def Obligations.NoOtherAccessStartsACommand : Prop :=
  ∀ (s t : State) (e : HostEvent) (es : List HostEvent),
    s.host.script = e :: es → isResetEvent e = false → (∀ w, e ≠ .write 0x00C .word w) →
      step s = .next t →
        t.cmd = s.cmd ∧ t.res0 = s.res0 ∧ t.res1 = s.res1 ∧ t.fcmd = s.fcmd ∧
        t.status.err = s.status.err ∧ t.status.fault = s.status.fault ∧
        t.plls.ph = s.plls.ph ∧ t.plls.fr = s.plls.fr

/-- R81: a step takes exactly the first event of the script, in order. R231: only the platform's RESET
event moves the RESET level. The script and the event form are the model's own (log entries 1 and 4). -/
def Obligations.EventsAreServedInOrder : Prop :=
  ∀ s t : State, step s = .next t →
    t.host.script = s.host.script.tail ∧
    ((∀ e, s.host.script.head? = some e → isResetEvent e = false) → t.host.resetIn = s.host.resetIn)

/-- R232, R230, R203, R212 (log entry 4): a host access while RESET is asserted is refused by name, and
nothing else stops a step: no command, illegal word or bus error does. -/
def Obligations.StepStopsOnlyUnderReset : Prop :=
  ∀ s : State,
    ((∃ e, s.host.script.head? = some e ∧ isResetEvent e = false) → s.host.resetIn = true →
      step s = .refused .accessDuringReset) ∧
    (((∀ e, s.host.script.head? = some e → isResetEvent e = true) ∨ s.host.resetIn = false) →
      ∃ t, step s = .next t)

/-- R74: an admitted read returns the register's value and changes no register. -/
def Obligations.AdmittedReadOnlyReads : Prop :=
  ∀ (s : State) (r : Reg) (es : List HostEvent),
    s.host.script = .read (regOffset r) .word :: es → s.host.resetIn = false →
      step s = .next { s with host := { s.host with script := es, rdata := some (readReg r s) } }

/-- R75: an admitted write of w to a RW register stores w, every bit of it, and reaches nothing else; a
write to an RO register or a reserved offset stores nothing. -/
def Obligations.WriteStoresInItsRegisterAlone : Prop :=
  ∀ (s : State) (off : BitVec 12) (w : Word) (es : List HostEvent),
    s.host.script = .write off .word w :: es → s.host.resetIn = false →
      (∀ r, regAt off = some r → regRight r = .rw →
        ∃ t, step s = .next t ∧ readReg r t = w ∧ (∀ q, q ≠ r → readReg q t = readReg q s) ∧
          t.status = s.status) ∧
      ((regAt off = none ∨ ∃ r, regAt off = some r ∧ regRight r = .ro) →
        ∃ t, step s = .next t ∧ t.status.busErr = true ∧
          ∀ q, q ≠ .status → q ≠ .beaddr → readReg q t = readReg q s)

/-- R207, R39: an access that is not 4 bytes, or misaligned, or at a reserved offset, or a write to an RO
register, sets BUSERR, is recorded in BEADDR if it is the first, returns 0 if it reads, stores nothing
and leaves ERR. For a width that is not 1, 2 or 4 bytes the recorded code is one of 3–7 (log entry 3).
That no data is returned after a write is the model's choice (log entry 2), not the rule's. -/
def Obligations.BusErrorsAreRecordedOnce : Prop :=
  ∀ (s : State) (e : HostEvent) (off : BitVec 12) (wr : Bool) (size : AccessSize) (es : List HostEvent),
    s.host.script = e :: es → s.host.resetIn = false →
    (e = .read off size ∧ wr = false ∨ ∃ w, e = .write off size w ∧ wr = true) →
    (size ≠ .word ∨ off.toNat % 4 ≠ 0 ∨ regAt off = none ∨
      (wr = true ∧ ∃ r, regAt off = some r ∧ regRight r = .ro)) →
      ∃ t, step s = .next t ∧ t.status.busErr = true ∧ t.status.err = s.status.err ∧
        t.status.fault = s.status.fault ∧
        t.host.rdata = (if wr then none else some 0) ∧
        (∀ q, q ≠ .status → q ≠ .beaddr → readReg q t = readReg q s) ∧
        (s.status.busErr = true → readReg .beaddr t = readReg .beaddr s) ∧
        (s.status.busErr = false → ∃ code : Nat,
          (readReg .beaddr t).toNat = off.toNat + (if wr then 2 ^ 12 else 0) + code * 2 ^ 13 ∧
          (size = .byte → code = 0) ∧ (size = .half → code = 1) ∧ (size = .word → code = 2) ∧
          (size = .other → 3 ≤ code ∧ code ≤ 7))

/-- R32: the offsets of the map are 4-aligned and distinct, and the aligned offsets of no register are the
reserved ranges; a misaligned offset is no register's. -/
def Obligations.RegisterMapLeavesTheReservedRanges : Prop :=
  (∀ r : Reg, (regOffset r).toNat % 4 = 0 ∧ regAt (regOffset r) = some r) ∧
  (∀ off : BitVec 12, regAt off = none ↔ off.toNat % 4 ≠ 0 ∨ reservedOffset off.toNat = true)

/-- R70: an address of the window at BASE reaches its offset, and no other address reaches the block. -/
def Obligations.WindowReachesItsOffsets : Prop :=
  ∀ base : Nat,
    (∀ off : BitVec 12, windowOffset base (base + off.toNat) = some off) ∧
    (∀ addr, addr < base ∨ base + 4096 ≤ addr → windowOffset base addr = none)

/-- R71: byte lane i carries bits [8i+7:8i], and the four lanes carry the word. -/
def Obligations.ByteLanesAreLittleEndian : Prop :=
  ∀ w : Word,
    (∀ i < 4, (byteLane w i).toNat = w.toNat / 2 ^ (8 * i) % 2 ^ 8) ∧
    wordOfLanes (byteLane w 0) (byteLane w 1) (byteLane w 2) (byteLane w 3) = w

/-! ### COSSIN (40_cossin.md) -/

/-- R117: COSSIN writes the table-interpolated pair of its phase to RES0 and RES1, by the octant table of
R116, and ERR; the corner cases and the example of R117. -/
def Obligations.CossinInterpolatesTheTable : Prop :=
  (∀ s : State,
    let p := s.arg0.toNat
    let o := p / 2 ^ 29
    let r := (if o % 2 = 1 then 2 ^ 32 - 1 - p else p) % 2 ^ 29
    let e := cosSinTable.getD (r / 2 ^ 22) (0, 0)
    let d : Int := ((r % 2 ^ 22 : Nat) : Int) - 2 ^ 21
    let dq : Int := d * 51472 / 2 ^ 15
    let c1 : Int := (e.1 : Int) * 8192 - (e.2 : Int) * dq / 2 ^ 17
    let s1 : Int := (e.2 : Int) * 8192 + (e.1 : Int) * dq / 2 ^ 17
    let out : Int × Int := match o with
      | 0 => (c1, s1)
      | 1 => (s1, c1)
      | 2 => (-s1, c1)
      | 3 => (-c1, s1)
      | 4 => (-c1, -s1)
      | 5 => (-s1, -c1)
      | 6 => (s1, -c1)
      | _ => (c1, -s1)
    r / 2 ^ 22 < cosSinTable.length ∧
    exec .cossin s = .next { s with
      status := { s.status with err := .ok }
      res0 := BitVec.ofInt 32 out.1
      res1 := BitVec.ofInt 32 out.2 }) ∧
  (∀ s : State,
    exec .cossin { s with arg0 := 0 } = .next { s with
      arg0 := 0, status := { s.status with err := .ok }
      res0 := BitVec.ofInt 32 1073743736, res1 := BitVec.ofInt 32 (-999) } ∧
    exec .cossin { s with arg0 := 0x80000000 } = .next { s with
      arg0 := 0x80000000, status := { s.status with err := .ok }
      res0 := BitVec.ofInt 32 (-1073743736), res1 := BitVec.ofInt 32 999 } ∧
    exec .cossin { s with arg0 := 0x40000000 } = .next { s with
      arg0 := 0x40000000, status := { s.status with err := .ok }
      res0 := 0x000003E7, res1 := 0x40000778 })

/-- R111: 128 entries of 17-bit values with the stated checksums, and LutRead gives the entry. -/
def Obligations.TableHasItsChecksums : Prop :=
  cosSinTable.length = 128 ∧
  (cosSinTable.map Prod.fst).sum = 15104824 ∧ (cosSinTable.map Prod.snd).sum = 6256624 ∧
  (∀ e ∈ cosSinTable, e.1 < 2 ^ 17 ∧ e.2 < 2 ^ 17) ∧
  (∀ i : BitVec 7, cosSinTable[i.toNat]? = some ((lutRead i).1.toNat, (lutRead i).2.toNat))

/-- R118: the bounds of the outputs and of the first-octant pair, both attained, and that for a fixed
entry c1 falls and s1 rises with the phase delta. -/
def Obligations.CossinOutputsAreBounded : Prop :=
  (∀ (s t : State), exec .cossin s = .next t →
    -1073743736 ≤ t.res0.toInt ∧ t.res0.toInt ≤ 1073743736 ∧
    -1073743736 ≤ t.res1.toInt ∧ t.res1.toInt ≤ 1073743736) ∧
  (∀ v : Word,
    -999 ≤ (firstOctant v).1 ∧ (firstOctant v).1 ≤ 1073743736 ∧
    -999 ≤ (firstOctant v).2 ∧ (firstOctant v).2 ≤ 1073743736) ∧
  firstOctant 0 = (1073743736, -999) ∧
  (∀ (i : BitVec 7) (a b : Int), a ≤ b →
    interpCos (lutRead i).1 (lutRead i).2 b ≤ interpCos (lutRead i).1 (lutRead i).2 a ∧
    interpSin (lutRead i).1 (lutRead i).2 a ≤ interpSin (lutRead i).1 (lutRead i).2 b)

/-- R119: the quarter-turn, half-turn and complement laws, for every phase, as results of COSSIN. -/
def Obligations.CossinSymmetryLaws : Prop :=
  ∀ (s t q h n : State) (p : Word),
    exec .cossin { s with arg0 := p } = .next t →
    exec .cossin { s with arg0 := p + 0x40000000 } = .next q →
    exec .cossin { s with arg0 := p + 0x80000000 } = .next h →
    exec .cossin { s with arg0 := ~~~p } = .next n →
      (q.res0 = -t.res1 ∧ q.res1 = t.res0) ∧
      (h.res0 = -t.res0 ∧ h.res1 = -t.res1) ∧
      (n.res0 = t.res0 ∧ n.res1 = -t.res1)

/-- R120: over any set of phases closed under adding half a turn both outputs sum to 0; so over every
sweep of 2^k evenly spaced phases, the full period included. -/
def Obligations.CossinSumsToZero : Prop :=
  (∀ S : Finset Word, (∀ p ∈ S, p + 0x80000000 ∈ S) →
    ∑ p ∈ S, (cosOut p).toInt = 0 ∧ ∑ p ∈ S, (sinOut p).toInt = 0) ∧
  (∀ k, 1 ≤ k → k ≤ 32 →
    ∑ j ∈ Finset.range (2 ^ k), (cosOut (BitVec.ofNat 32 (j * 2 ^ (32 - k)))).toInt = 0 ∧
    ∑ j ∈ Finset.range (2 ^ k), (sinOut (BitVec.ofNat 32 (j * 2 ^ (32 - k)))).toInt = 0)

/-! ### Binary32 arithmetic (41_biquad_iir.md R130–R134) -/

/-- R131: on finite operands each operation is its exact result rounded once, to nearest, ties to even.
That overflow begins half a step past the greatest finite value is IEEE 754's, PRESUMED in log entry 9. -/
def Obligations.ArithmeticRoundsToNearestEven : Prop :=
  ∀ a b : Word, isFin a = true → isFin b = true →
    RoundsTo (fadd a b) (fval a + fval b) 1 ∧
    RoundsTo (fsub a b) (fval a - fval b) 1 ∧
    RoundsTo (fmul a b) (fval a * fval b) (2 ^ 149) ∧
    (isZero b = false → RoundsTo (fdiv a b) (fval a * 2 ^ 149 * (fval b).sign) |fval b|)

/-- R131, with the cases and signs that IEEE 754 prescribes and R131 does not write out (log entry 9): NaN
operands; two infinities; an infinity and a finite value, on either side; zero factors, dividends and
divisors; zero sums and differences; the signs of products and quotients. -/
def Obligations.ArithmeticSpecialCases : Prop :=
  (∀ a b : Word, isNaN a = true ∨ isNaN b = true →
    isNaN (fadd a b) = true ∧ isNaN (fsub a b) = true ∧ isNaN (fmul a b) = true ∧ isNaN (fdiv a b) = true) ∧
  (∀ m n : Bool,
    fadd (finf m) (finf n) = (if m = n then finf m else qNaN) ∧
    fsub (finf m) (finf n) = (if m = n then qNaN else finf m) ∧
    fmul (finf m) (finf n) = finf (m != n) ∧ fdiv (finf m) (finf n) = qNaN ∧
    fmul (fzero m) (finf n) = qNaN ∧ fmul (finf m) (fzero n) = qNaN ∧ fdiv (fzero m) (fzero n) = qNaN ∧
    fadd (fzero m) (fzero n) = fzero (m && n) ∧ fsub (fzero m) (fzero n) = fzero (m && !n)) ∧
  (∀ (a : Word) (m : Bool), isFin a = true →
    fadd a (finf m) = finf m ∧ fadd (finf m) a = finf m ∧
    fsub a (finf m) = finf (!m) ∧ fsub (finf m) a = finf m ∧
    fdiv a (finf m) = fzero (fsign a != m) ∧ fdiv (finf m) a = finf (m != fsign a) ∧
    fmul a (fzero m) = fzero (fsign a != m) ∧ fmul (fzero m) a = fzero (m != fsign a) ∧
    (isZero a = false →
      fmul a (finf m) = finf (fsign a != m) ∧ fmul (finf m) a = finf (m != fsign a) ∧
      fdiv a (fzero m) = finf (fsign a != m) ∧ fdiv (fzero m) a = fzero (m != fsign a))) ∧
  (∀ a b : Word, isFin a = true → isFin b = true →
    (fval a + fval b = 0 → fadd a b = fzero (fsign a && fsign b)) ∧
    (fval a = fval b → fsub a b = fzero (fsign a && !fsign b)) ∧ fsub a a = 0) ∧
  (∀ a b : Word, isNaN a = false → isNaN b = false →
    (isNaN (fmul a b) = false → fsign (fmul a b) = (fsign a != fsign b)) ∧
    (isNaN (fdiv a b) = false → fsign (fdiv a b) = (fsign a != fsign b)))

/-- R133: every NaN an operation produces is 0x7FC00000, and what only moves a value keeps its pattern:
the shift and insert, the hold replay, the clamp, and register reads and writes. -/
def Obligations.NaNsAreCanonicalAndMovesKeepPatterns : Prop :=
  (∀ a b : Word,
    (isNaN (fadd a b) = true → fadd a b = 0x7FC00000) ∧ (isNaN (fsub a b) = true → fsub a b = 0x7FC00000) ∧
    (isNaN (fmul a b) = true → fmul a b = 0x7FC00000) ∧ (isNaN (fdiv a b) = true → fdiv a b = 0x7FC00000)) ∧
  (∀ s t : State, exec .iirUpdate s = .next t ∨ exec .iirUpdateHold s = .next t →
    t.xy.xy0 = s.arg0 ∧ t.xy.xy1 = s.xy.xy0 ∧ t.xy.xy3 = s.xy.xy2 ∧ t.xy.xy4 = s.xy.xy3) ∧
  (∀ s t : State, exec .iirUpdateHold s = .next t →
    t.res0 = s.xy.xy2 ∨ t.res0 = s.iir.ymin ∨ t.res0 = s.iir.ymax) ∧
  (∀ lo hi y : Word, clamp lo hi y = y ∨ clamp lo hi y = lo ∨ clamp lo hi y = hi) ∧
  (∀ (r : Reg) (w : Word) (s : State), regRight r = .rw → readReg r (writeReg r w s) = w)

/-- R134: the sign primitives act on bits; comparisons are false on a NaN and take −0 as +0; the epsilon
test is |v| < 2^-23, false for a NaN and for ±2^-23 themselves. -/
def Obligations.SignsComparisonsAndEpsilon : Prop :=
  (∀ a : Word, (fabs a).toNat = a.toNat % 2 ^ 31) ∧
  (∀ a b : Word, (fcopysign a b).toNat = b.toNat / 2 ^ 31 * 2 ^ 31 + a.toNat % 2 ^ 31) ∧
  (∀ a b : Word, isNaN a = true ∨ isNaN b = true → flt a b = false ∧ fgt a b = false) ∧
  (∀ a b : Word, isNaN a = false → isNaN b = false →
    (flt a b = true ↔ fval a < fval b) ∧ (fgt a b = true ↔ fval b < fval a)) ∧
  (flt 0x80000000 0 = false ∧ fgt 0 0x80000000 = false) ∧
  (∀ v : Word, small v = true ↔ isNaN v = false ∧ |fval v| < 2 ^ 126) ∧
  (small 0x34000000 = false ∧ small 0xB4000000 = false ∧ small 0x33FFFFFF = true)

/-! ### The IIR unit (41_biquad_iir.md R135–R152) -/

/-- R137: the clamp as its two selections and every consequence the rule lists; a NaN y passes also under
inverted bounds, as the pseudocode has it (log entry 11). -/
def Obligations.ClampSelectsByBounds : Prop :=
  ∀ lo hi y : Word,
    (clamp lo hi y = if flt (if fgt y hi then hi else y) lo then lo else if fgt y hi then hi else y) ∧
    (clamp lo hi y = y ∨ clamp lo hi y = lo ∨ clamp lo hi y = hi) ∧
    (isNaN y = true → clamp lo hi y = y) ∧
    (isNaN y = false → isNaN lo = false → isNaN hi = false → fval lo ≤ fval hi →
      fval (clamp lo hi y) = max (fval lo) (min (fval y) (fval hi)) ∧
      (fval lo ≤ fval y → fval y ≤ fval hi → clamp lo hi y = y)) ∧
    (isNaN y = false → flt hi lo = true → clamp lo hi y = lo) ∧
    (isNaN hi = true → clamp lo hi y = if flt y lo then lo else y) ∧
    (isNaN lo = true → clamp lo hi y = if fgt y hi then hi else y) ∧
    (isZero y = true → (isZero lo = true ∨ isNaN lo = true) → (isZero hi = true ∨ isNaN hi = true) →
      clamp lo hi y = y)

/-- R139: what IIR_UPDATE does, with H = 0 and H = 1, all of the next state; its corner cases and its
example. -/
def Obligations.IirUpdateFiltersOneSample : Prop :=
  (∀ s : State,
    let c := s.iir
    let y := clamp c.ymin c.ymax
      (fadd (fadd (fadd (fadd (fadd c.yoff (fmul c.ba0 s.arg0)) (fmul c.ba1 s.xy.xy0))
        (fmul c.ba2 s.xy.xy1)) (fmul c.ba3 s.xy.xy2)) (fmul c.ba4 s.xy.xy3))
    exec .iirUpdate s = .next { s with
      status := { s.status with err := .ok }
      xy := ⟨s.arg0, s.xy.xy0, y, s.xy.xy2, s.xy.xy3⟩
      res0 := y }) ∧
  (∀ s : State,
    let y := clamp s.iir.ymin s.iir.ymax s.xy.xy2
    exec .iirUpdateHold s = .next { s with
      status := { s.status with err := .ok }
      xy := ⟨s.arg0, s.xy.xy0, y, s.xy.xy2, s.xy.xy3⟩
      res0 := y }) ∧
  (∀ s t : State, exec .iirUpdate s = .next t →
    (isNaN s.arg0 = true ∨ (isInf s.arg0 = true ∧ isZero s.iir.ba0 = true)) →
      t.res0 = 0x7FC00000 ∧ t.xy.xy2 = 0x7FC00000 ∧ t.xy.xy0 = s.arg0) ∧
  (∀ s t : State, s.iir = ⟨0x3F000000, 0x3E800000, 0, 0, 0, 0, 0xC1200000, 0x41200000⟩ →
    s.xy = ⟨0, 0, 0, 0, 0⟩ → s.arg0 = 0x40000000 → exec .iirUpdate s = .next t →
      t.res0 = 0x3F800000 ∧ t.xy = ⟨0x40000000, 0, 0x3F800000, 0, 0⟩)

/-- R140: two machines with the same coefficients, bounds, history and input give the same output and the
same new history, whatever else they hold: there is no hidden state. -/
def Obligations.IirOutputDependsOnConfigurationAndHistory : Prop :=
  ∀ (i : Instr) (s s' t t' : State), i = .iirUpdate ∨ i = .iirUpdateHold →
    s.iir = s'.iir → s.xy = s'.xy → s.arg0 = s'.arg0 →
    exec i s = .next t → exec i s' = .next t' → t.res0 = t'.res0 ∧ t.xy = t'.xy

/-- R141: the clamped output is what is stored, and it is y1 and then y2 of the next two updates. -/
def Obligations.ClampedOutputIsFedBack : Prop :=
  ∀ (i j k : Instr) (s t u v : State) (x x' : Word),
    (i = .iirUpdate ∨ i = .iirUpdateHold) → (j = .iirUpdate ∨ j = .iirUpdateHold) →
    (k = .iirUpdate ∨ k = .iirUpdateHold) →
    exec i s = .next t → exec j { t with arg0 := x } = .next u → exec k { u with arg0 := x' } = .next v →
      (∃ y, t.res0 = clamp s.iir.ymin s.iir.ymax y) ∧ t.xy.xy2 = t.res0 ∧ u.xy.xy3 = t.res0 ∧
      v.xy.xy4 = t.res0

/-- R142: after an update, with the IIR history and bounds as it left them, a held update returns the same
RES0 bit for bit whatever ARG0 is, and shifts the slots as a normal one. -/
def Obligations.HoldReplaysThePreviousOutput : Prop :=
  ∀ (i : Instr) (s t u v : State), i = .iirUpdate ∨ i = .iirUpdateHold →
    exec i s = .next t → u.xy = t.xy → u.iir.ymin = s.iir.ymin → u.iir.ymax = s.iir.ymax →
    exec .iirUpdateHold u = .next v →
      v.res0 = t.res0 ∧ v.xy = ⟨u.arg0, u.xy.xy0, t.res0, u.xy.xy2, u.xy.xy3⟩

/-- R143, R144: IIR_SET_PI stores the synthesised taps, or, where the sum of b0 and b1 is small, only sets
ERR to PI_DEGENERATE. For ki = ±0 with a kp that is not finite or a NaN g the taps are stored, as the
pseudocode has it and against the words of R146: the model's reading (log entry 6). -/
def Obligations.SetPiStoresTheSynthesis : Prop :=
  ∀ s : State,
    let kp := s.arg0
    let ki := fcopysign s.arg1 kp
    let g := fcopysign s.arg2 kp
    let c := if small g then 0x3F800000 else fdiv 0x3F800000 (fadd 0x3F800000 (fdiv ki g))
    let a1 := fsub (fmul 0x40000000 c) 0x3F800000
    let b0 := fadd (fmul ki c) kp
    let b1 := fsub (fmul ki c) (fmul a1 kp)
    (small (fadd b0 b1) = false →
      exec .iirSetpi s = .next { s with
        status := { s.status with err := .ok }
        iir := { s.iir with ba0 := b0, ba1 := b1, ba2 := 0, ba3 := a1, ba4 := 0 } }) ∧
    (small (fadd b0 b1) = true →
      exec .iirSetpi s = .next { s with status := { s.status with err := .piDegenerate } })

/-- R144's corner case: with |g| < 2^-23 a completed IIR_SET_PI is a pure integrator, a1 = 1, b0 = ki + kp,
b1 = ki − kp, with ki's sign that of kp. -/
def Obligations.SmallGainLimitGivesAPureIntegrator : Prop :=
  ∀ s t : State, small s.arg2 = true → exec .iirSetpi s = .next t → t.status.err = .ok →
    t.iir.ba0 = fadd (fcopysign s.arg1 s.arg0) s.arg0 ∧
    t.iir.ba1 = fsub (fcopysign s.arg1 s.arg0) s.arg0 ∧
    t.iir.ba2 = 0 ∧ t.iir.ba3 = 0x3F800000 ∧ t.iir.ba4 = 0

/-- R146 for a finite kp and a g that is no NaN (log entry 6): with ki = ±0 IIR_SET_PI ends with
PI_DEGENERATE and leaves the taps. -/
def Obligations.ZeroIntegralGainIsDegenerate : Prop :=
  ∀ s : State, isZero s.arg1 = true → isFin s.arg0 = true → isNaN s.arg2 = false →
    exec .iirSetpi s = .next { s with status := { s.status with err := .piDegenerate } }

/-- R148: IIR_SET_XOFF always completes and stores xo times the DC gain; ±0 for a zero gain and a finite
xo. -/
def Obligations.SetXoffStoresTheScaledOffset : Prop :=
  ∀ s : State,
    let k := fadd (fadd s.iir.ba0 s.iir.ba1) s.iir.ba2
    exec .iirSetxoff s = .next { s with
      status := { s.status with err := .ok }
      iir := { s.iir with yoff := fmul s.arg0 k } } ∧
    (isZero k = true → isFin s.arg0 = true → isZero (fmul s.arg0 k) = true)

/-- R149, R206: IIR_GET_XOFF divides y_offset by the DC gain, or, for a gain below 2^-23, only sets ERR to
XOFF_UNDEFINED; a gain of ±2^-23 does not fail, and a NaN gain gives 0x7FC00000. -/
def Obligations.GetXoffDividesByTheGain : Prop :=
  ∀ s : State,
    let k := fadd (fadd s.iir.ba0 s.iir.ba1) s.iir.ba2
    (small k = false →
      exec .iirGetxoff s = .next { s with
        status := { s.status with err := .ok }, res0 := fdiv s.iir.yoff k }) ∧
    (small k = true →
      exec .iirGetxoff s = .next { s with status := { s.status with err := .xoffUndefined } }) ∧
    (k = 0x34000000 ∨ k = 0xB4000000 → small k = false) ∧
    (isNaN k = true → small k = false ∧ fdiv s.iir.yoff k = 0x7FC00000)

/-- R150: IIR_GET_K returns (b0 + b1) + b2 and never fails; its corner cases and example. -/
def Obligations.GetKReturnsTheTapSum : Prop :=
  (∀ s : State,
    exec .iirGetk s = .next { s with
      status := { s.status with err := .ok }
      res0 := fadd (fadd s.iir.ba0 s.iir.ba1) s.iir.ba2 }) ∧
  (∀ s t : State, exec .iirGetk s = .next t →
    (s.iir.ba0 = 0x80000000 → s.iir.ba1 = 0x80000000 → s.iir.ba2 = 0x80000000 → t.res0 = 0x80000000) ∧
    (s.iir.ba0 = 0x7F800000 → s.iir.ba1 = 0xFF800000 → t.res0 = 0x7FC00000) ∧
    (s.iir.ba0 = 0x3FC00000 → s.iir.ba1 = 0xBF000000 → s.iir.ba2 = 0 → t.res0 = 0x3F800000))

/-- R93, R101, R37, R152: the frame of the IIR commands, which write no other register and keep FAULT,
BUSERR and the host's side. -/
def Obligations.IirCommandsFrame : Prop :=
  ∀ (i : Instr) (s t : State),
    i ∈ [Instr.iirUpdate, .iirUpdateHold, .iirSetpi, .iirSetxoff, .iirGetxoff, .iirGetk] →
    exec i s = .next t → KeepsAllBut (commandDests i) s t

/-! ### PLLS (42_pll_shift.md) -/

/-- R162: the rounding shift in exact integers: the biased value, wrapped, floors; without a wrap it is
round half up; its range. -/
def Obligations.RoundingShiftRoundsHalfUp : Prop :=
  ∀ (v : Word) (n : Nat), 1 ≤ n → n ≤ 30 →
    (rshr v n).toInt = (v + BitVec.ofNat 32 (2 ^ (n - 1))).toInt / 2 ^ n ∧
    (v.toInt < 2 ^ 31 - 2 ^ (n - 1) → (rshr v n).toInt = (2 * v.toInt + 2 ^ n) / 2 ^ (n + 1)) ∧
    (2 ^ 31 - 2 ^ (n - 1) ≤ v.toInt →
      (rshr v n).toInt = (v.toInt + 2 ^ (n - 1) - 2 ^ 32) / 2 ^ n) ∧
    -(2 ^ (31 - n)) ≤ (rshr v n).toInt ∧ (rshr v n).toInt ≤ 2 ^ (31 - n) - 1

/-- R167, R164–R166: what PLLS_UPDATE does with legal shifts, for a present and a missing sample, all of
the next state, every shift and halving as a floor of exact integers; and the example of R167. -/
def Obligations.PllsUpdateTracksOneSample : Prop :=
  (∀ (sf sp : Nat) (s : State), 1 ≤ sf → sf ≤ 30 → 1 ≤ sp → sp ≤ 30 →
    let x := s.arg0
    let df : Word := BitVec.ofInt 32 ((x - s.plls.x - s.plls.f + BitVec.ofNat 32 (2 ^ (sf - 1))).toInt / 2 ^ sf)
    let f := s.plls.f + df
    let fm := f - BitVec.ofInt 32 (df.toInt / 2)
    let y := s.plls.y + fm
    let dy : Word := BitVec.ofInt 32 ((x - y + BitVec.ofNat 32 (2 ^ (sp - 1))).toInt / 2 ^ sp)
    let ph := y + dy - BitVec.ofInt 32 (dy.toInt / 2)
    exec (.pllsUpdate sf sp) s = .next { s with
      status := { s.status with err := .ok }
      plls := ⟨x, f, y + dy, ph, fm + dy⟩
      res0 := ph, res1 := fm + dy }) ∧
  (∀ (sf sp : Nat) (s : State), 1 ≤ sf → sf ≤ 30 → 1 ≤ sp → sp ≤ 30 →
    let x := s.plls.x + s.plls.f
    let fm := s.plls.f
    let y := s.plls.y + fm
    let dy : Word := BitVec.ofInt 32 ((x - y + BitVec.ofNat 32 (2 ^ (sp - 1))).toInt / 2 ^ sp)
    let ph := y + dy - BitVec.ofInt 32 (dy.toInt / 2)
    exec (.pllsUpdateMiss sf sp) s = .next { s with
      status := { s.status with err := .ok }
      plls := ⟨x, s.plls.f, y + dy, ph, fm + dy⟩
      res0 := ph, res1 := fm + dy }) ∧
  (∀ s t : State, s.plls = ⟨0, 0, 0, 0, 0⟩ → s.arg0 = 0x00010000 → exec (.pllsUpdate 8 4) s = .next t →
    t.res0 = 0x0000087C ∧ t.res1 = 0x00001078 ∧ t.plls.x = 0x10000 ∧ t.plls.f = 0x100 ∧ t.plls.y = 0x1078)

/-- R208, R161, R203: with a shift outside [1, 30] PLLS_UPDATE, present or missing, raises SHIFT_RANGE:
ERR, FAULT, FCMD if it is the first fault, and nothing else. -/
def Obligations.IllegalShiftRaisesShiftRange : Prop :=
  ∀ (sf sp : Nat) (s : State), ¬ (1 ≤ sf ∧ sf ≤ 30 ∧ 1 ≤ sp ∧ sp ≤ 30) →
    (∀ i, i = .pllsUpdate sf sp ∨ i = .pllsUpdateMiss sf sp →
      exec i s = .next { s with
        status := { s.status with err := .shiftRange, fault := true }
        fcmd := if s.status.fault then s.fcmd else s.cmd })

/-- R169: a missing sample gives exactly what a present sample at the extrapolated phase x + f gives; and
there the rounding shift of the frequency error is 0. -/
def Obligations.MissingSampleContinuesTheLoop : Prop :=
  ∀ (sf sp : Nat) (s : State), 1 ≤ sf → sf ≤ 30 → 1 ≤ sp → sp ≤ 30 →
    s.arg0 = s.plls.x + s.plls.f →
      exec (.pllsUpdateMiss sf sp) s = exec (.pllsUpdate sf sp) s ∧
      rshr (s.arg0 - s.plls.x - s.plls.f) sf = 0 ∧
      ∀ t, exec (.pllsUpdate sf sp) s = .next t → t.plls.f = s.plls.f

/-- R170: the rounding shift is 0 exactly on [−2^(s−1), 2^(s−1)), so an input that follows the frequency
keeps a constant offset x − y of that size, and the frequency, for good. -/
def Obligations.StaticPhaseOffsetPersists : Prop :=
  (∀ (v : Word) (n : Nat), 1 ≤ n → n ≤ 30 →
    (rshr v n = 0 ↔ -(2 ^ (n - 1)) ≤ v.toInt ∧ v.toInt < 2 ^ (n - 1))) ∧
  (∀ (sf sp : Nat) (s t : State), 1 ≤ sf → sf ≤ 30 → 1 ≤ sp → sp ≤ 30 →
    s.arg0 = s.plls.x + s.plls.f →
    -(2 ^ (sp - 1)) ≤ (s.plls.x - s.plls.y).toInt → (s.plls.x - s.plls.y).toInt < 2 ^ (sp - 1) →
    exec (.pllsUpdate sf sp) s = .next t →
      t.plls.f = s.plls.f ∧ t.plls.x - t.plls.y = s.plls.x - s.plls.y)

/-- R172: from zero state a present sample equal to 0 leaves all of PLLS zero, and ARG0 for the next. -/
def Obligations.ZeroInputKeepsZeroState : Prop :=
  ∀ (shifts : List (Nat × Nat)), (∀ q ∈ shifts, shiftsLegal q.1 q.2 = true) →
    shifts.foldl (fun p q => pllsAdvance (some 0) q.1 q.2 p) ⟨0, 0, 0, 0, 0⟩ = ⟨0, 0, 0, 0, 0⟩ ∧
    ∀ q ∈ shifts, ∀ s : State, s.plls.x = 0 → s.plls.f = 0 → s.plls.y = 0 → s.arg0 = 0 →
      exec (.pllsUpdate q.1 q.2) s = .next { s with
        status := { s.status with err := .ok }, plls := ⟨0, 0, 0, 0, 0⟩, res0 := 0, res1 := 0 }

/-- R93, R101, R203: the frame of the PLLS commands when they end without a fault, and of COSSIN. -/
def Obligations.CossinAndPllsCommandsFrame : Prop :=
  (∀ s t : State, exec .cossin s = .next t → KeepsAllBut (commandDests .cossin) s t) ∧
  (∀ s t : State, exec .pllsRead s = .next t → KeepsAllBut (commandDests .pllsRead) s t) ∧
  (∀ (i : Instr) (sf sp : Nat) (s t : State), 1 ≤ sf → sf ≤ 30 → 1 ≤ sp → sp ≤ 30 →
    i = .pllsUpdate sf sp ∨ i = .pllsUpdateMiss sf sp →
    exec i s = .next t → KeepsAllBut (commandDests i) s t)

/-! ### PLLG (43_pll_gain.md) -/

/-- R182: the product of two i32 values is exact in 64 bits. -/
def Obligations.GainProductsNeverWrap : Prop :=
  ∀ a b : Word, (mul64 a b).toInt = a.toInt * b.toInt ∧ |a.toInt * b.toInt| ≤ 2 ^ 62

/-- R183: what PLLG_UPDATE with a present sample does, all of the next state, in exact integers with each
64-bit sum wrapped. For k = 0 with F ≠ 0 this moves Y, f0 and y0, as the pseudocode has it and against
the words of R181 and R186: the model's reading (log entry 12). -/
def Obligations.PllgUpdateTracksOneSample : Prop :=
  ∀ s : State,
    let F : Int := s.pllg.fHi.toInt * 2 ^ 32 + s.pllg.fLo.toNat
    let Y : Int := s.pllg.yHi.toInt * 2 ^ 32 + s.pllg.yLo.toNat
    let df : Int := (s.arg0 - s.pllg.x - s.pllg.fHi).toInt * s.arg1.toInt
    let F1 : DWord := BitVec.ofInt 64 (F + df)
    let Y1 : DWord := BitVec.ofInt 64 (Y + F1.toInt)
    let F2 : DWord := BitVec.ofInt 64 (F1.toInt + df)
    let dy : Int := (s.arg0 - hi32 Y1).toInt * s.arg1.toInt
    let Y2 : DWord := BitVec.ofInt 64 (Y1.toInt + dy)
    let Y3 : DWord := BitVec.ofInt 64 (Y2.toInt + dy)
    exec .pllgUpdate s = .next { s with
      status := { s.status with err := .ok }
      pllg := {
        x := s.arg0, fLo := lo32 F2, fHi := hi32 F2, yLo := lo32 Y3, yHi := hi32 Y3
        f0 := hi32 Y2 - s.pllg.y0, y0 := hi32 Y2 } }

/-- R185: what PLLG_UPDATE with a missing sample does, all of the next state: F and f0 stay, Y advances by
F, x and y0 by f0. -/
def Obligations.PllgMissingSampleAdvancesOpenLoop : Prop :=
  ∀ s : State,
    let F : Int := s.pllg.fHi.toInt * 2 ^ 32 + s.pllg.fLo.toNat
    let Y : Int := s.pllg.yHi.toInt * 2 ^ 32 + s.pllg.yLo.toNat
    let Y1 : DWord := BitVec.ofInt 64 (Y + F)
    exec .pllgUpdateMiss s = .next { s with
      status := { s.status with err := .ok }
      pllg := { s.pllg with
        x := s.pllg.x + s.pllg.f0, yLo := lo32 Y1, yHi := hi32 Y1, y0 := s.pllg.y0 + s.pllg.f0 } }

/-- R168, R187: PLLS_READ copies the latches, PLLG_READ the visible phase and frequency, to RES0 and RES1. -/
def Obligations.ReadCommandsReturnTheEstimates : Prop :=
  ∀ s : State,
    exec .pllsRead s = .next { s with
      status := { s.status with err := .ok }, res0 := s.plls.ph, res1 := s.plls.fr } ∧
    exec .pllgRead s = .next { s with
      status := { s.status with err := .ok }, res0 := s.pllg.y0, res1 := s.pllg.f0 }

/-- R93, R101, R186: the frame of the PLLG commands; an update leaves RES0 and RES1, and a missing sample
leaves F and f0 too. -/
def Obligations.PllgCommandsFrame : Prop :=
  ∀ (i : Instr) (s t : State), i ∈ [Instr.pllgUpdate, .pllgUpdateMiss, .pllgRead] →
    exec i s = .next t → KeepsAllBut (commandDests i) s t

/-! ### Errors (60_exceptions.md) and the machine as a whole -/

/-- R3: no command of one unit reads or writes the state of another: with the other units' registers
replaced, the command does the same, and the replacements stay. -/
def Obligations.UnitsAreIndependent : Prop :=
  (∀ (s : State) (c : IirCfg) (v : IirXy) (p : Plls) (g : Pllg),
    exec .cossin (setIir c (setXy v (setPlls p (setPllg g s)))) =
      mapNext (fun t => setIir c (setXy v (setPlls p (setPllg g t)))) (exec .cossin s)) ∧
  (∀ (i : Instr) (s : State) (p : Plls) (g : Pllg),
    i ∈ [Instr.iirUpdate, .iirUpdateHold, .iirSetpi, .iirSetxoff, .iirGetxoff, .iirGetk] →
    exec i (setPlls p (setPllg g s)) = mapNext (fun t => setPlls p (setPllg g t)) (exec i s)) ∧
  (∀ (i : Instr) (sf sp : Nat) (s : State) (c : IirCfg) (v : IirXy) (g : Pllg),
    i ∈ [Instr.pllsUpdate sf sp, .pllsUpdateMiss sf sp, .pllsRead] →
    exec i (setIir c (setXy v (setPllg g s))) =
      mapNext (fun t => setIir c (setXy v (setPllg g t))) (exec i s)) ∧
  (∀ (i : Instr) (s : State) (c : IirCfg) (v : IirXy) (p : Plls),
    i ∈ [Instr.pllgUpdate, .pllgUpdateMiss, .pllgRead] →
    exec i (setIir c (setXy v (setPlls p s))) =
      mapNext (fun t => setIir c (setXy v (setPlls p t))) (exec i s))

/-- R35, R200: STATUS reads the number of its code in bits 3:0, FAULT in bit 8, BUSERR in bit 9 and 0 in
every other bit; and the code each command can end with. -/
def Obligations.EveryCommandEndsWithItsCode : Prop :=
  (∀ s : State, (readReg .status s).toNat =
    (match s.status.err with
      | .ok => 0
      | .illegalCmd => 1
      | .shiftRange => 2
      | .piDegenerate => 3
      | .xoffUndefined => 4) +
    (if s.status.fault then 2 ^ 8 else 0) + (if s.status.busErr then 2 ^ 9 else 0)) ∧
  (∀ (i : Instr) (s : State), ∃ t, exec i s = .next t ∧
    ((t.status.err = .ok ∧ (readReg .status t).toNat % 16 = 0) ∨
     (t.status.err = .shiftRange ∧ badShift i = true ∧ (readReg .status t).toNat % 16 = 2) ∨
     (t.status.err = .piDegenerate ∧ i = .iirSetpi ∧ (readReg .status t).toNat % 16 = 3) ∨
     (t.status.err = .xoffUndefined ∧ i = .iirGetxoff ∧ (readReg .status t).toNat % 16 = 4)) ∧
    (badShift i = true → t.status.err = .shiftRange))

/-- R202: a word that does not decode raises ILLEGAL_CMD: CMD holds it, STATUS and perhaps FCMD change,
no other register does; the rule's examples do not decode. -/
def Obligations.IllegalWordTouchesNoUnit : Prop :=
  (∀ (s : State) (w : Word) (d : DecodeReject) (es : List HostEvent),
    s.host.script = .write 0x00C .word w :: es → s.host.resetIn = false → decode w = .reject d →
      ∃ t, step s = .next t ∧ t.cmd = w ∧ t.status.err = .illegalCmd ∧ t.status.fault = true ∧
        t.status.busErr = s.status.busErr ∧
        t.fcmd = (if s.status.fault then s.fcmd else w) ∧
        ∀ r, r ≠ .cmd → r ≠ .status → r ≠ .fcmd → readReg r t = readReg r s) ∧
  (∀ w ∈ [0x00000000#32, 0x000000FF#32, 0x01000001#32, 0x00000110#32, 0x00002020#32, 0x04000020#32],
    ∃ d, decode w = .reject d)

/-- R209: a word with a reserved bit reports ILLEGAL_CMD even where its shifts are illegal too: decode is
checked first. -/
def Obligations.DecodeErrorsComeFirst : Prop :=
  ∀ (s t : State) (w : Word) (es : List HostEvent),
    s.host.script = .write 0x00C .word w :: es → s.host.resetIn = false →
    opField w = 0x20 → w.toNat / 2 ^ 13 % 2 ^ 3 ≠ 0 ∨ w.toNat / 2 ^ 21 % 2 ^ 3 ≠ 0 ∨ w.toNat / 2 ^ 25 ≠ 0 →
    step s = .next t → t.status.err = .illegalCmd

/-- R210: the per-sample commands never raise an error, whatever the operands are. -/
def Obligations.PerSampleCommandsNeverFail : Prop :=
  ∀ (i : Instr) (s : State),
    i ∈ [Instr.cossin, .iirUpdate, .iirUpdateHold, .pllgUpdate, .pllgUpdateMiss, .pllsRead, .pllgRead] ∨
      (∃ sf sp, 1 ≤ sf ∧ sf ≤ 30 ∧ 1 ≤ sp ∧ sp ≤ 30 ∧ (i = .pllsUpdate sf sp ∨ i = .pllsUpdateMiss sf sp)) →
    ∃ t, exec i s = .next t ∧ t.status = { s.status with err := .ok }

/-- R203, R207, R38, R39: FAULT and BUSERR, once set, stay with their records until a RESET event. -/
def Obligations.StickyBitsWaitForReset : Prop :=
  ∀ s t : State, step s = .next t → (∀ e, s.host.script.head? = some e → isResetEvent e = false) →
    (s.status.fault = true → t.status.fault = true ∧ t.fcmd = s.fcmd) ∧
    (s.status.busErr = true → t.status.busErr = true ∧ t.beaddr = s.beaddr)

/-! ### Reset (70_reset_and_hazards.md) -/

/-- R230, R32, R50: after reset ID and CFG read their constants and every other register 0; RESET driven
high, or released, puts every register there from any state and executes nothing. -/
def Obligations.ResetGivesTheStatedValues : Prop :=
  (∀ r : Reg, readReg r State.reset =
    (if r = .id then 0x49445350 else if r = .cfg then 0x00003D17 else 0)) ∧
  (∀ (s : State) (level : Bool) (es : List HostEvent),
    s.host.script = .reset level :: es → level = true ∨ s.host.resetIn = true →
      ∃ t, step s = .next t ∧ (∀ r, readReg r t = readReg r State.reset) ∧ t.host.resetIn = level ∧
        t.host.script = es)

/-- R233: with the IIR unit as reset leaves it, an update on a finite input returns +0.0, and on an
infinite or NaN input 0x7FC00000. -/
def Obligations.ResetFilterReturnsZeroOrNaN : Prop :=
  ∀ (s t : State), s.iir = State.reset.iir → s.xy = State.reset.xy → exec .iirUpdate s = .next t →
    (isFin s.arg0 = true → t.res0 = 0) ∧ (isFin s.arg0 = false → t.res0 = 0x7FC00000)

/-! ### Invariants -/

/-- R35, R38, R39, R200–R207, R230: what the error registers say of the past, and what RESET holds, every
step keeps, from every state in which it holds. -/
def Obligations.BookkeepingIsKeptByEveryStep : Prop :=
  ∀ s t : State, Bookkeeping s → step s = .next t → Bookkeeping t

/-- The invariant holds right after reset. -/
def Obligations.BookkeepingHoldsAtReset : Prop := Bookkeeping State.reset

/-- R201, R203, R207: a script of admitted accesses and words that do not fault runs to its end, every
event served, with FAULT and BUSERR clear throughout. -/
def Obligations.GoodScriptsRunClean : Prop :=
  ∀ s : State, Clean s → s.host.resetIn = false → (∀ e ∈ s.host.script, goodEvent e = true) →
    (∀ k, SafeRun k s) ∧
    ∃ t, Host.Core.run core s.host.script.length s = .next t ∧ t.host.script = []
end

