-- ==== Sys2Proof/Laws/Binary32.lean ====
section
/-! SUPPORT. The binary32 arithmetic: fields as numbers, how NaNs travel, that comparison is an order,
and that rounding is exact on values that binary32 has (41_biquad_iir.md R130–R134). -/

namespace Sys2Proof.Machine

/-! ### The fields of a pattern -/

theorem fexp_eq (a : Word) : fexp a = a.toNat / 2 ^ 23 % 2 ^ 8 := by
  simp [fexp, BitVec.extractLsb'_toNat, Nat.shiftRight_eq_div_pow]

theorem ffrac_eq (a : Word) : ffrac a = a.toNat % 2 ^ 23 := by
  simp [ffrac, BitVec.extractLsb'_toNat]

theorem fexp_lt (a : Word) : fexp a < 256 := by rw [fexp_eq]; omega

theorem ffrac_lt (a : Word) : ffrac a < 2 ^ 23 := by rw [ffrac_eq]; omega

theorem fsign_eq (a : Word) : fsign a = decide (2 ^ 31 ≤ a.toNat) := by
  have := a.isLt
  rw [fsign, BitVec.getLsbD, Nat.testBit_eq_decide_div_mod_eq]
  congr 1
  apply propext
  omega

/-- A magnitude pattern below ∞ is its exponent and fraction side by side. -/
theorem toNat_of_finite {a : Word} (h : a.toNat < 0x7F800000) :
    a.toNat = fexp a * 2 ^ 23 + ffrac a ∧ fexp a < 255 := by
  rw [fexp_eq, ffrac_eq]
  omega

/-! ### NaNs -/

@[simp] theorem isNaN_qNaN : isNaN qNaN = true := by decide

theorem fadd_nan_left {a : Word} (h : isNaN a = true) (b : Word) : fadd a b = qNaN := by
  simp [fadd, h]

theorem fadd_nan_right {b : Word} (h : isNaN b = true) (a : Word) : fadd a b = qNaN := by
  simp [fadd, h]

theorem fmul_nan_left {a : Word} (h : isNaN a = true) (b : Word) : fmul a b = qNaN := by
  simp [fmul, h]

theorem fmul_nan_right {b : Word} (h : isNaN b = true) (a : Word) : fmul a b = qNaN := by
  simp [fmul, h]

theorem fdiv_nan_left {a : Word} (h : isNaN a = true) (b : Word) : fdiv a b = qNaN := by
  simp [fdiv, h]

theorem fdiv_nan_right {b : Word} (h : isNaN b = true) (a : Word) : fdiv a b = qNaN := by
  simp [fdiv, h]

/-! ### Infinities, zeros and the sign -/

@[simp] theorem isNaN_finf (m : Bool) : isNaN (finf m) = false := by cases m <;> decide
@[simp] theorem isInf_finf (m : Bool) : isInf (finf m) = true := by cases m <;> decide
@[simp] theorem isZero_finf (m : Bool) : isZero (finf m) = false := by cases m <;> decide
@[simp] theorem fsign_finf (m : Bool) : fsign (finf m) = m := by cases m <;> decide
@[simp] theorem fneg_finf (m : Bool) : fneg (finf m) = finf (!m) := by cases m <;> decide
@[simp] theorem isNaN_fzero (m : Bool) : isNaN (fzero m) = false := by cases m <;> decide
@[simp] theorem isInf_fzero (m : Bool) : isInf (fzero m) = false := by cases m <;> decide
@[simp] theorem isZero_fzero (m : Bool) : isZero (fzero m) = true := by cases m <;> decide
@[simp] theorem fsign_fzero (m : Bool) : fsign (fzero m) = m := by cases m <;> decide
@[simp] theorem fmag_fzero (m : Bool) : fmag (fzero m) = 0 := by cases m <;> decide
@[simp] theorem fval_fzero (m : Bool) : fval (fzero m) = 0 := by cases m <;> decide
@[simp] theorem fneg_fzero (m : Bool) : fneg (fzero m) = fzero (!m) := by cases m <;> decide

@[simp] theorem withSign_zero (neg : Bool) : withSign neg 0#32 = fzero neg := rfl

/-- A finite pattern is no NaN. -/
theorem isNaN_of_isFin {a : Word} (h : isFin a = true) : isNaN a = false := by
  simp_all [isFin, isNaN]

/-- A finite pattern is no infinity. -/
theorem isInf_of_isFin {a : Word} (h : isFin a = true) : isInf a = false := by
  simp_all [isFin, isInf]

/-- Turning the sign over changes bit 31 alone. -/
@[simp] theorem fsign_fneg (a : Word) : fsign (fneg a) = !fsign a := by
  simp [fsign, fneg]

@[simp] theorem fexp_fneg (a : Word) : fexp (fneg a) = fexp a := by
  simp only [fexp, fneg]
  rw [BitVec.extractLsb'_xor]
  simp

@[simp] theorem ffrac_fneg (a : Word) : ffrac (fneg a) = ffrac a := by
  simp only [ffrac, fneg]
  rw [BitVec.extractLsb'_xor]
  simp

@[simp] theorem isNaN_fneg (a : Word) : isNaN (fneg a) = isNaN a := by simp [isNaN]
@[simp] theorem isFin_fneg (a : Word) : isFin (fneg a) = isFin a := by simp [isFin]
@[simp] theorem fmag_fneg (a : Word) : fmag (fneg a) = fmag a := by simp [fmag]

@[simp] theorem fval_fneg (a : Word) : fval (fneg a) = -fval a := by
  cases h : fsign a <;> simp [fval, h]

/-- A zero magnitude rounds to zero. -/
@[simp] theorem roundMag_zero (d : Nat) : roundMag 0 d = 0#32 := by
  simp [roundMag, roundHalfEven, binade]

/-! ### Comparison and the clamp -/

/-- a > b is b < a. -/
theorem fgt_eq_flt (a b : Word) : fgt a b = flt b a := by
  simp only [fgt, flt]
  cases isNaN a <;> cases isNaN b <;> rfl

/-- Nothing is below itself. -/
@[simp] theorem flt_self (a : Word) : flt a a = false := by simp [flt]

/-- Of two values at most one is below the other. -/
theorem flt_asymm {a b : Word} (h : flt a b = true) : flt b a = false := by
  simp only [flt, Bool.and_eq_true, decide_eq_true_eq] at h
  have : ¬ fval b < fval a := by omega
  simp [flt, this]

theorem flt_trans {a b c : Word} (h : flt a b = true) (h' : flt b c = true) : flt a c = true := by
  simp only [flt, Bool.and_eq_true, decide_eq_true_eq] at h h' ⊢
  exact ⟨⟨h.1.1, h'.1.2⟩, by omega⟩

theorem flt_nan_left {a : Word} (h : isNaN a = true) (b : Word) : flt a b = false := by simp [flt, h]

theorem flt_nan_right {b : Word} (h : isNaN b = true) (a : Word) : flt a b = false := by simp [flt, h]

/-- A clamp of a clamped value changes nothing, whatever the bounds are. -/
theorem clamp_clamp (lo hi y : Word) : clamp lo hi (clamp lo hi y) = clamp lo hi y := by
  simp only [clamp, fgt_eq_flt]
  cases h1 : flt hi y <;> cases h2 : flt hi lo <;> cases h3 : flt y lo <;>
    simp_all

/-! ### Rounding -/

/-- What is a whole number rounds to itself. -/
theorem roundHalfEven_exact (m : Nat) {d : Nat} (hd : 0 < d) : roundHalfEven (m * d) d = m := by
  simp [roundHalfEven, Nat.mul_div_cancel m hd, Nat.mul_mod_left, hd]

/-- Rounding is within half a unit. -/
theorem roundHalfEven_near (n : Nat) {d : Nat} (hd : 0 < d) :
    2 * n ≤ (2 * roundHalfEven n d + 1) * d ∧ 2 * (roundHalfEven n d * d) ≤ 2 * n + d := by
  have hn := Nat.div_add_mod n d
  have hr := Nat.mod_lt n hd
  have h2 : n / d % 2 ≤ 1 := by omega
  unfold roundHalfEven
  simp only
  generalize hq : n / d = q at *
  generalize n % d = r at *
  subst hn
  split
  · constructor <;> nlinarith
  · split
    · constructor <;> nlinarith
    · have : d = 2 * r := by omega
      rcases Nat.mod_two_eq_zero_or_one q with h | h <;> rw [h] <;> subst this <;> constructor <;> nlinarith

/-- Rounding gives the floor or the next whole number. -/
theorem roundHalfEven_floor (n d : Nat) :
    roundHalfEven n d = n / d ∨ roundHalfEven n d = n / d + 1 := by
  unfold roundHalfEven
  simp only
  split
  · exact .inl rfl
  · split
    · exact .inr rfl
    · rcases Nat.mod_two_eq_zero_or_one (n / d) with h | h <;> simp [h]

/-- The binade of a normal value's magnitude is its exponent less one. -/
theorem binade_normal {f k : Nat} (hf : f < 2 ^ 23) : binade ((2 ^ 23 + f) * 2 ^ k) 1 = k := by
  have hpos : 0 < (2 ^ 23 + f) * 2 ^ k := by positivity
  have : Nat.log2 ((2 ^ 23 + f) * 2 ^ k) = 23 + k := by
    rw [Nat.log2_eq_iff hpos.ne']
    constructor
    · rw [pow_add]
      exact Nat.mul_le_mul_right _ (by omega)
    · rw [show 23 + k + 1 = 24 + k by omega, pow_add]
      exact Nat.mul_lt_mul_of_pos_right (by omega) (by positivity)
  rw [binade, Nat.div_one, this]
  omega

/-- The binade of a value below 2^24 units is 0. -/
theorem binade_low {n d : Nat} (h : n / d < 2 ^ 24) : binade n d = 0 := by
  rcases Nat.eq_zero_or_pos (n / d) with h0 | h0
  · simp [binade, h0]
  · have : Nat.log2 (n / d) < 24 := (Nat.log2_lt h0.ne').2 h
    rw [binade]
    omega

/-- The magnitude of a finite binary32 pattern rounds to that pattern: a value that binary32 has is not
changed by rounding. -/
theorem roundMag_fmag {a : Word} (h : a.toNat < 0x7F800000) : roundMag (fmag a) 1 = a := by
  obtain ⟨ha, he⟩ := toNat_of_finite h
  have hf := ffrac_lt a
  have hp : a.toNat = binade (fmag a) 1 * 2 ^ 23 + roundHalfEven (fmag a) (1 * 2 ^ binade (fmag a) 1) := by
    by_cases h0 : fexp a = 0
    · have hm : fmag a = ffrac a := by simp [fmag, h0]
      have hb : binade (ffrac a) 1 = 0 := binade_low (by rw [Nat.div_one]; omega)
      rw [hm, hb]
      have hr := roundHalfEven_exact (ffrac a) (d := 1) Nat.one_pos
      rw [Nat.mul_one] at hr
      rw [Nat.pow_zero, Nat.mul_one, hr, ha, h0]
    · obtain ⟨k, hk⟩ := Nat.exists_eq_add_of_lt (Nat.pos_of_ne_zero h0)
      have hm : fmag a = (2 ^ 23 + ffrac a) * 2 ^ k := by
        rw [fmag, if_neg h0, hk]
        simp
      rw [hm, binade_normal hf, Nat.one_mul, roundHalfEven_exact _ (by positivity), ha, hk]
      ring
  unfold roundMag
  simp only [← hp, if_pos h]
  exact BitVec.ofNat_toNat 32 a |>.trans (by simp)

/-- The magnitude does not see the sign. -/
theorem fmag_withSign {a : Word} (neg : Bool) (h : a.toNat < 2 ^ 31) : fmag (withSign neg a) = fmag a := by
  cases neg with
  | false => rfl
  | true =>
    have hb : (a ||| 0x80000000#32).toNat = a.toNat + 2 ^ 31 := by
      rw [BitVec.toNat_or]
      have : a.toNat ||| 2 ^ 31 = 2 ^ 31 * 1 + a.toNat := by
        rw [Nat.two_pow_add_eq_or_of_lt h, Nat.mul_one, Nat.or_comm]
      simpa [Nat.add_comm] using this
    have he : fexp (a ||| 0x80000000#32) = fexp a := by rw [fexp_eq, fexp_eq, hb]; omega
    have hf : ffrac (a ||| 0x80000000#32) = ffrac a := by rw [ffrac_eq, ffrac_eq, hb]; omega
    simp [fmag, withSign, he, hf]

/-- The sign put on a magnitude is the sign read from it. -/
theorem fsign_withSign {a : Word} (neg : Bool) (h : a.toNat < 2 ^ 31) : fsign (withSign neg a) = neg := by
  cases neg with
  | false => rw [withSign, if_neg (by decide), fsign_eq, decide_eq_false (by omega)]
  | true => simp [withSign, fsign]

/-- A rounded magnitude has no sign bit, so the sign of a product or quotient is the one put on it. -/
theorem roundMag_lt (n d : Nat) : (roundMag n d).toNat < 2 ^ 31 := by
  unfold roundMag
  dsimp only
  split
  · rw [BitVec.toNat_ofNat]
    omega
  · decide

end Sys2Proof.Machine
end

