-- ==== Sys2Proof/Laws/Operands.lean ====
section
/-! SUPPORT. The integer primitives read as exact integers, and the accumulators as register pairs. -/

namespace Sys2Proof.Machine

/-- The halving floors (42_pll_shift.md R163). -/
theorem half_toInt (v : Word) : (half v).toInt = v.toInt / 2 := by
  rw [half, BitVec.toInt_sshiftRight, Int.shiftRight_eq_div_pow]
  rfl

/-- The rounding shift floors its biased operand (42_pll_shift.md R162). -/
theorem rshr_toInt (v : Word) (s : Nat) :
    (rshr v s).toInt = (v + BitVec.ofNat 32 (2 ^ (s - 1))).toInt / 2 ^ s := by
  rw [rshr, BitVec.toInt_sshiftRight, Int.shiftRight_eq_div_pow]
  norm_cast

/-- The upper register of a pair is the upper half (00_scope.md R15). -/
@[simp] theorem hi32_append (a b : Word) : hi32 (a ++ b) = a := by
  refine BitVec.eq_of_getLsbD_eq fun i hi => ?_
  rw [hi32, BitVec.getLsbD_extractLsb', BitVec.getLsbD_append]
  simp [hi]

/-- The lower register of a pair is the lower half (00_scope.md R15). -/
@[simp] theorem lo32_append (a b : Word) : lo32 (a ++ b) = b := by
  refine BitVec.eq_of_getLsbD_eq fun i hi => ?_
  rw [lo32, BitVec.getLsbD_extractLsb', BitVec.getLsbD_append]
  simp [hi]

/-- A 64-bit value is its halves side by side (00_scope.md R15). -/
@[simp] theorem hi32_append_lo32 (v : DWord) : hi32 v ++ lo32 v = v := by
  refine BitVec.eq_of_getLsbD_eq fun i hi => ?_
  rw [BitVec.getLsbD_append, hi32, lo32, BitVec.getLsbD_extractLsb', BitVec.getLsbD_extractLsb']
  by_cases h : i < 32
  · simp [h]
  · simp [h, show i - 32 < 32 by omega, show 32 + (i - 32) = i by omega]

/-- The stored halves read back as the accumulators. -/
@[simp] theorem accF_withAccs (F Y : DWord) (g : Pllg) : accF (withAccs F Y g) = F := by
  simp [accF, withAccs]

@[simp] theorem accY_withAccs (F Y : DWord) (g : Pllg) : accY (withAccs F Y g) = Y := by
  simp [accY, withAccs]

/-- Storing the accumulators as they are changes nothing. -/
@[simp] theorem withAccs_self (g : Pllg) : withAccs (accF g) (accY g) g = g := by
  simp [withAccs, accF, accY]

end Sys2Proof.Machine
end

