-- ==== Sys2Proof/Laws/State.lean ====
section
/-! SUPPORT. One lemma per field of State for each named update, true by unfolding, for simp: a proof
over the state does not unfold a record update again. -/

namespace Sys2Proof.Machine

section setErr

variable (e : ErrCode) (s : State)

@[simp] theorem setErr_status : (setErr e s).status = { s.status with err := e } := rfl
@[simp] theorem setErr_cmd : (setErr e s).cmd = s.cmd := rfl
@[simp] theorem setErr_arg0 : (setErr e s).arg0 = s.arg0 := rfl
@[simp] theorem setErr_arg1 : (setErr e s).arg1 = s.arg1 := rfl
@[simp] theorem setErr_arg2 : (setErr e s).arg2 = s.arg2 := rfl
@[simp] theorem setErr_res0 : (setErr e s).res0 = s.res0 := rfl
@[simp] theorem setErr_res1 : (setErr e s).res1 = s.res1 := rfl
@[simp] theorem setErr_fcmd : (setErr e s).fcmd = s.fcmd := rfl
@[simp] theorem setErr_beaddr : (setErr e s).beaddr = s.beaddr := rfl
@[simp] theorem setErr_iir : (setErr e s).iir = s.iir := rfl
@[simp] theorem setErr_xy : (setErr e s).xy = s.xy := rfl
@[simp] theorem setErr_plls : (setErr e s).plls = s.plls := rfl
@[simp] theorem setErr_pllg : (setErr e s).pllg = s.pllg := rfl
@[simp] theorem setErr_host : (setErr e s).host = s.host := rfl

end setErr

section complete

variable (s : State)

@[simp] theorem complete_status : (complete s).status = { s.status with err := .ok } := rfl
@[simp] theorem complete_cmd : (complete s).cmd = s.cmd := rfl
@[simp] theorem complete_arg0 : (complete s).arg0 = s.arg0 := rfl
@[simp] theorem complete_arg1 : (complete s).arg1 = s.arg1 := rfl
@[simp] theorem complete_arg2 : (complete s).arg2 = s.arg2 := rfl
@[simp] theorem complete_res0 : (complete s).res0 = s.res0 := rfl
@[simp] theorem complete_res1 : (complete s).res1 = s.res1 := rfl
@[simp] theorem complete_fcmd : (complete s).fcmd = s.fcmd := rfl
@[simp] theorem complete_beaddr : (complete s).beaddr = s.beaddr := rfl
@[simp] theorem complete_iir : (complete s).iir = s.iir := rfl
@[simp] theorem complete_xy : (complete s).xy = s.xy := rfl
@[simp] theorem complete_plls : (complete s).plls = s.plls := rfl
@[simp] theorem complete_pllg : (complete s).pllg = s.pllg := rfl
@[simp] theorem complete_host : (complete s).host = s.host := rfl

end complete

section raiseStatusError

variable (e : ErrCode) (s : State)

@[simp] theorem raiseStatusError_status :
    (raiseStatusError e s).status = { s.status with err := e } := rfl
@[simp] theorem raiseStatusError_cmd : (raiseStatusError e s).cmd = s.cmd := rfl
@[simp] theorem raiseStatusError_arg0 : (raiseStatusError e s).arg0 = s.arg0 := rfl
@[simp] theorem raiseStatusError_arg1 : (raiseStatusError e s).arg1 = s.arg1 := rfl
@[simp] theorem raiseStatusError_arg2 : (raiseStatusError e s).arg2 = s.arg2 := rfl
@[simp] theorem raiseStatusError_res0 : (raiseStatusError e s).res0 = s.res0 := rfl
@[simp] theorem raiseStatusError_res1 : (raiseStatusError e s).res1 = s.res1 := rfl
@[simp] theorem raiseStatusError_fcmd : (raiseStatusError e s).fcmd = s.fcmd := rfl
@[simp] theorem raiseStatusError_beaddr : (raiseStatusError e s).beaddr = s.beaddr := rfl
@[simp] theorem raiseStatusError_iir : (raiseStatusError e s).iir = s.iir := rfl
@[simp] theorem raiseStatusError_xy : (raiseStatusError e s).xy = s.xy := rfl
@[simp] theorem raiseStatusError_plls : (raiseStatusError e s).plls = s.plls := rfl
@[simp] theorem raiseStatusError_pllg : (raiseStatusError e s).pllg = s.pllg := rfl
@[simp] theorem raiseStatusError_host : (raiseStatusError e s).host = s.host := rfl

end raiseStatusError

section raiseFault

variable (e : ErrCode) (s : State)

@[simp] theorem raiseFault_status :
    (raiseFault e s).status = { s.status with err := e, fault := true } := rfl
@[simp] theorem raiseFault_cmd : (raiseFault e s).cmd = s.cmd := rfl
@[simp] theorem raiseFault_arg0 : (raiseFault e s).arg0 = s.arg0 := rfl
@[simp] theorem raiseFault_arg1 : (raiseFault e s).arg1 = s.arg1 := rfl
@[simp] theorem raiseFault_arg2 : (raiseFault e s).arg2 = s.arg2 := rfl
@[simp] theorem raiseFault_res0 : (raiseFault e s).res0 = s.res0 := rfl
@[simp] theorem raiseFault_res1 : (raiseFault e s).res1 = s.res1 := rfl
@[simp] theorem raiseFault_fcmd :
    (raiseFault e s).fcmd = if s.status.fault then s.fcmd else s.cmd := rfl
@[simp] theorem raiseFault_beaddr : (raiseFault e s).beaddr = s.beaddr := rfl
@[simp] theorem raiseFault_iir : (raiseFault e s).iir = s.iir := rfl
@[simp] theorem raiseFault_xy : (raiseFault e s).xy = s.xy := rfl
@[simp] theorem raiseFault_plls : (raiseFault e s).plls = s.plls := rfl
@[simp] theorem raiseFault_pllg : (raiseFault e s).pllg = s.pllg := rfl
@[simp] theorem raiseFault_host : (raiseFault e s).host = s.host := rfl

end raiseFault

section setRes0

variable (v : Word) (s : State)

@[simp] theorem setRes0_status : (setRes0 v s).status = s.status := rfl
@[simp] theorem setRes0_cmd : (setRes0 v s).cmd = s.cmd := rfl
@[simp] theorem setRes0_arg0 : (setRes0 v s).arg0 = s.arg0 := rfl
@[simp] theorem setRes0_arg1 : (setRes0 v s).arg1 = s.arg1 := rfl
@[simp] theorem setRes0_arg2 : (setRes0 v s).arg2 = s.arg2 := rfl
@[simp] theorem setRes0_res0 : (setRes0 v s).res0 = v := rfl
@[simp] theorem setRes0_res1 : (setRes0 v s).res1 = s.res1 := rfl
@[simp] theorem setRes0_fcmd : (setRes0 v s).fcmd = s.fcmd := rfl
@[simp] theorem setRes0_beaddr : (setRes0 v s).beaddr = s.beaddr := rfl
@[simp] theorem setRes0_iir : (setRes0 v s).iir = s.iir := rfl
@[simp] theorem setRes0_xy : (setRes0 v s).xy = s.xy := rfl
@[simp] theorem setRes0_plls : (setRes0 v s).plls = s.plls := rfl
@[simp] theorem setRes0_pllg : (setRes0 v s).pllg = s.pllg := rfl
@[simp] theorem setRes0_host : (setRes0 v s).host = s.host := rfl

end setRes0

section setRes01

variable (v w : Word) (s : State)

@[simp] theorem setRes01_status : (setRes01 v w s).status = s.status := rfl
@[simp] theorem setRes01_cmd : (setRes01 v w s).cmd = s.cmd := rfl
@[simp] theorem setRes01_arg0 : (setRes01 v w s).arg0 = s.arg0 := rfl
@[simp] theorem setRes01_arg1 : (setRes01 v w s).arg1 = s.arg1 := rfl
@[simp] theorem setRes01_arg2 : (setRes01 v w s).arg2 = s.arg2 := rfl
@[simp] theorem setRes01_res0 : (setRes01 v w s).res0 = v := rfl
@[simp] theorem setRes01_res1 : (setRes01 v w s).res1 = w := rfl
@[simp] theorem setRes01_fcmd : (setRes01 v w s).fcmd = s.fcmd := rfl
@[simp] theorem setRes01_beaddr : (setRes01 v w s).beaddr = s.beaddr := rfl
@[simp] theorem setRes01_iir : (setRes01 v w s).iir = s.iir := rfl
@[simp] theorem setRes01_xy : (setRes01 v w s).xy = s.xy := rfl
@[simp] theorem setRes01_plls : (setRes01 v w s).plls = s.plls := rfl
@[simp] theorem setRes01_pllg : (setRes01 v w s).pllg = s.pllg := rfl
@[simp] theorem setRes01_host : (setRes01 v w s).host = s.host := rfl

end setRes01

section setIir

variable (c : IirCfg) (s : State)

@[simp] theorem setIir_status : (setIir c s).status = s.status := rfl
@[simp] theorem setIir_cmd : (setIir c s).cmd = s.cmd := rfl
@[simp] theorem setIir_arg0 : (setIir c s).arg0 = s.arg0 := rfl
@[simp] theorem setIir_arg1 : (setIir c s).arg1 = s.arg1 := rfl
@[simp] theorem setIir_arg2 : (setIir c s).arg2 = s.arg2 := rfl
@[simp] theorem setIir_res0 : (setIir c s).res0 = s.res0 := rfl
@[simp] theorem setIir_res1 : (setIir c s).res1 = s.res1 := rfl
@[simp] theorem setIir_fcmd : (setIir c s).fcmd = s.fcmd := rfl
@[simp] theorem setIir_beaddr : (setIir c s).beaddr = s.beaddr := rfl
@[simp] theorem setIir_iir : (setIir c s).iir = c := rfl
@[simp] theorem setIir_xy : (setIir c s).xy = s.xy := rfl
@[simp] theorem setIir_plls : (setIir c s).plls = s.plls := rfl
@[simp] theorem setIir_pllg : (setIir c s).pllg = s.pllg := rfl
@[simp] theorem setIir_host : (setIir c s).host = s.host := rfl

end setIir

section setXy

variable (v : IirXy) (s : State)

@[simp] theorem setXy_status : (setXy v s).status = s.status := rfl
@[simp] theorem setXy_cmd : (setXy v s).cmd = s.cmd := rfl
@[simp] theorem setXy_arg0 : (setXy v s).arg0 = s.arg0 := rfl
@[simp] theorem setXy_arg1 : (setXy v s).arg1 = s.arg1 := rfl
@[simp] theorem setXy_arg2 : (setXy v s).arg2 = s.arg2 := rfl
@[simp] theorem setXy_res0 : (setXy v s).res0 = s.res0 := rfl
@[simp] theorem setXy_res1 : (setXy v s).res1 = s.res1 := rfl
@[simp] theorem setXy_fcmd : (setXy v s).fcmd = s.fcmd := rfl
@[simp] theorem setXy_beaddr : (setXy v s).beaddr = s.beaddr := rfl
@[simp] theorem setXy_iir : (setXy v s).iir = s.iir := rfl
@[simp] theorem setXy_xy : (setXy v s).xy = v := rfl
@[simp] theorem setXy_plls : (setXy v s).plls = s.plls := rfl
@[simp] theorem setXy_pllg : (setXy v s).pllg = s.pllg := rfl
@[simp] theorem setXy_host : (setXy v s).host = s.host := rfl

end setXy

section setPlls

variable (p : Plls) (s : State)

@[simp] theorem setPlls_status : (setPlls p s).status = s.status := rfl
@[simp] theorem setPlls_cmd : (setPlls p s).cmd = s.cmd := rfl
@[simp] theorem setPlls_arg0 : (setPlls p s).arg0 = s.arg0 := rfl
@[simp] theorem setPlls_arg1 : (setPlls p s).arg1 = s.arg1 := rfl
@[simp] theorem setPlls_arg2 : (setPlls p s).arg2 = s.arg2 := rfl
@[simp] theorem setPlls_res0 : (setPlls p s).res0 = s.res0 := rfl
@[simp] theorem setPlls_res1 : (setPlls p s).res1 = s.res1 := rfl
@[simp] theorem setPlls_fcmd : (setPlls p s).fcmd = s.fcmd := rfl
@[simp] theorem setPlls_beaddr : (setPlls p s).beaddr = s.beaddr := rfl
@[simp] theorem setPlls_iir : (setPlls p s).iir = s.iir := rfl
@[simp] theorem setPlls_xy : (setPlls p s).xy = s.xy := rfl
@[simp] theorem setPlls_plls : (setPlls p s).plls = p := rfl
@[simp] theorem setPlls_pllg : (setPlls p s).pllg = s.pllg := rfl
@[simp] theorem setPlls_host : (setPlls p s).host = s.host := rfl

end setPlls

section setPllg

variable (g : Pllg) (s : State)

@[simp] theorem setPllg_status : (setPllg g s).status = s.status := rfl
@[simp] theorem setPllg_cmd : (setPllg g s).cmd = s.cmd := rfl
@[simp] theorem setPllg_arg0 : (setPllg g s).arg0 = s.arg0 := rfl
@[simp] theorem setPllg_arg1 : (setPllg g s).arg1 = s.arg1 := rfl
@[simp] theorem setPllg_arg2 : (setPllg g s).arg2 = s.arg2 := rfl
@[simp] theorem setPllg_res0 : (setPllg g s).res0 = s.res0 := rfl
@[simp] theorem setPllg_res1 : (setPllg g s).res1 = s.res1 := rfl
@[simp] theorem setPllg_fcmd : (setPllg g s).fcmd = s.fcmd := rfl
@[simp] theorem setPllg_beaddr : (setPllg g s).beaddr = s.beaddr := rfl
@[simp] theorem setPllg_iir : (setPllg g s).iir = s.iir := rfl
@[simp] theorem setPllg_xy : (setPllg g s).xy = s.xy := rfl
@[simp] theorem setPllg_plls : (setPllg g s).plls = s.plls := rfl
@[simp] theorem setPllg_pllg : (setPllg g s).pllg = g := rfl
@[simp] theorem setPllg_host : (setPllg g s).host = s.host := rfl

end setPllg

section setHost

variable (h : HostPort) (s : State)

@[simp] theorem setHost_status : (setHost h s).status = s.status := rfl
@[simp] theorem setHost_cmd : (setHost h s).cmd = s.cmd := rfl
@[simp] theorem setHost_arg0 : (setHost h s).arg0 = s.arg0 := rfl
@[simp] theorem setHost_arg1 : (setHost h s).arg1 = s.arg1 := rfl
@[simp] theorem setHost_arg2 : (setHost h s).arg2 = s.arg2 := rfl
@[simp] theorem setHost_res0 : (setHost h s).res0 = s.res0 := rfl
@[simp] theorem setHost_res1 : (setHost h s).res1 = s.res1 := rfl
@[simp] theorem setHost_fcmd : (setHost h s).fcmd = s.fcmd := rfl
@[simp] theorem setHost_beaddr : (setHost h s).beaddr = s.beaddr := rfl
@[simp] theorem setHost_iir : (setHost h s).iir = s.iir := rfl
@[simp] theorem setHost_xy : (setHost h s).xy = s.xy := rfl
@[simp] theorem setHost_plls : (setHost h s).plls = s.plls := rfl
@[simp] theorem setHost_pllg : (setHost h s).pllg = s.pllg := rfl
@[simp] theorem setHost_host : (setHost h s).host = h := rfl

end setHost

section setRdata

variable (d : Option Word) (s : State)

@[simp] theorem setRdata_status : (setRdata d s).status = s.status := rfl
@[simp] theorem setRdata_cmd : (setRdata d s).cmd = s.cmd := rfl
@[simp] theorem setRdata_arg0 : (setRdata d s).arg0 = s.arg0 := rfl
@[simp] theorem setRdata_arg1 : (setRdata d s).arg1 = s.arg1 := rfl
@[simp] theorem setRdata_arg2 : (setRdata d s).arg2 = s.arg2 := rfl
@[simp] theorem setRdata_res0 : (setRdata d s).res0 = s.res0 := rfl
@[simp] theorem setRdata_res1 : (setRdata d s).res1 = s.res1 := rfl
@[simp] theorem setRdata_fcmd : (setRdata d s).fcmd = s.fcmd := rfl
@[simp] theorem setRdata_beaddr : (setRdata d s).beaddr = s.beaddr := rfl
@[simp] theorem setRdata_iir : (setRdata d s).iir = s.iir := rfl
@[simp] theorem setRdata_xy : (setRdata d s).xy = s.xy := rfl
@[simp] theorem setRdata_plls : (setRdata d s).plls = s.plls := rfl
@[simp] theorem setRdata_pllg : (setRdata d s).pllg = s.pllg := rfl
@[simp] theorem setRdata_host : (setRdata d s).host = { s.host with rdata := d } := rfl

end setRdata

section setScript

variable (es : List HostEvent) (s : State)

@[simp] theorem setScript_status : (setScript es s).status = s.status := rfl
@[simp] theorem setScript_cmd : (setScript es s).cmd = s.cmd := rfl
@[simp] theorem setScript_arg0 : (setScript es s).arg0 = s.arg0 := rfl
@[simp] theorem setScript_arg1 : (setScript es s).arg1 = s.arg1 := rfl
@[simp] theorem setScript_arg2 : (setScript es s).arg2 = s.arg2 := rfl
@[simp] theorem setScript_res0 : (setScript es s).res0 = s.res0 := rfl
@[simp] theorem setScript_res1 : (setScript es s).res1 = s.res1 := rfl
@[simp] theorem setScript_fcmd : (setScript es s).fcmd = s.fcmd := rfl
@[simp] theorem setScript_beaddr : (setScript es s).beaddr = s.beaddr := rfl
@[simp] theorem setScript_iir : (setScript es s).iir = s.iir := rfl
@[simp] theorem setScript_xy : (setScript es s).xy = s.xy := rfl
@[simp] theorem setScript_plls : (setScript es s).plls = s.plls := rfl
@[simp] theorem setScript_pllg : (setScript es s).pllg = s.pllg := rfl
@[simp] theorem setScript_host : (setScript es s).host = { s.host with script := es } := rfl

end setScript

end Sys2Proof.Machine
end

