-- ==== Sys2Proof/Laws/Regs.lean ====
section
/-! SUPPORT. The register map as a whole: offsets name registers one to one (10_state.md R32), a register
written reads back and leaves the others alone (20_memory.md R75), and which registers each shared update
can be seen in. -/

namespace Sys2Proof.Machine

/-- Every register is at its offset. -/
@[simp] theorem regAt_regOffset (r : Reg) : regAt (regOffset r) = some r := by
  cases r <;> decide

/-- Only a register's own offset names it. -/
theorem regOffset_of_regAt {off : BitVec 12} {r : Reg} (h : regAt off = some r) : regOffset r = off := by
  have := List.find?_some h
  simpa using this

/-- Two registers never share an offset. -/
theorem regOffset_injective {r q : Reg} (h : regOffset r = regOffset q) : r = q := by
  have := regAt_regOffset r
  rw [h, regAt_regOffset] at this
  exact (Option.some.inj this).symm

/-- Every register lies on a 4-aligned offset. -/
@[simp] theorem regOffset_aligned (r : Reg) : (regOffset r).extractLsb' 0 2 = 0 := by
  cases r <;> decide

/-- A misaligned offset is no register's. -/
theorem regAt_misaligned {off : BitVec 12} (h : off.extractLsb' 0 2 ≠ 0) : regAt off = none := by
  cases hr : regAt off with
  | none => rfl
  | some r => exact absurd (regOffset_of_regAt hr ▸ regOffset_aligned r) h

/-- A read/write register, and CMD, reads back what is written to it. -/
theorem readReg_writeReg_self {r : Reg} (h : regRight r ≠ .ro) (w : Word) (s : State) :
    readReg r (writeReg r w s) = w := by
  cases r <;> first | rfl | exact absurd rfl h

/-- A write reaches no other register. -/
theorem readReg_writeReg_other {r q : Reg} (h : q ≠ r) (w : Word) (s : State) :
    readReg q (writeReg r w s) = readReg q s := by
  cases r <;> cases q <;> first | rfl | exact absurd rfl h

/-- A write never reaches STATUS's fields. -/
@[simp] theorem writeReg_status (r : Reg) (w : Word) (s : State) : (writeReg r w s).status = s.status := by
  cases r <;> rfl

/-- A write never reaches the host's side. -/
@[simp] theorem writeReg_host (r : Reg) (w : Word) (s : State) : (writeReg r w s).host = s.host := by
  cases r <;> rfl

/-- A write never reaches FCMD. -/
@[simp] theorem writeReg_fcmd (r : Reg) (w : Word) (s : State) : (writeReg r w s).fcmd = s.fcmd := by
  cases r <;> rfl

/-- A write never reaches BEADDR. -/
@[simp] theorem writeReg_beaddr (r : Reg) (w : Word) (s : State) : (writeReg r w s).beaddr = s.beaddr := by
  cases r <;> rfl

/-- A write to another register leaves CMD. -/
theorem writeReg_cmd {r : Reg} (h : r ≠ .cmd) (w : Word) (s : State) : (writeReg r w s).cmd = s.cmd := by
  cases r <;> first | rfl | exact absurd rfl h

/-- The host's side is in no register. -/
@[simp] theorem readReg_setHost (r : Reg) (h : HostPort) (s : State) : readReg r (setHost h s) = readReg r s := by
  cases r <;> rfl

/-- What the bus returned is in no register. -/
@[simp] theorem readReg_setRdata (r : Reg) (d : Option Word) (s : State) :
    readReg r (setRdata d s) = readReg r s := by
  cases r <;> rfl

/-- The script is in no register. -/
@[simp] theorem readReg_setScript (r : Reg) (es : List HostEvent) (s : State) :
    readReg r (setScript es s) = readReg r s := by
  cases r <;> rfl

/-- ERR is seen in STATUS alone. -/
theorem readReg_setErr {r : Reg} (h : r ≠ .status) (e : ErrCode) (s : State) :
    readReg r (setErr e s) = readReg r s := by
  cases r <;> first | rfl | exact absurd rfl h

/-- `status OK` is seen in STATUS alone. -/
theorem readReg_complete {r : Reg} (h : r ≠ .status) (s : State) : readReg r (complete s) = readReg r s :=
  readReg_setErr h .ok s

/-- A status error is seen in STATUS alone (60_exceptions.md R204). -/
theorem readReg_raiseStatusError {r : Reg} (h : r ≠ .status) (e : ErrCode) (s : State) :
    readReg r (raiseStatusError e s) = readReg r s :=
  readReg_setErr h e s

/-- A fault is seen in STATUS and FCMD alone (60_exceptions.md R203). -/
theorem readReg_raiseFault {r : Reg} (h : r ≠ .status) (h' : r ≠ .fcmd) (e : ErrCode) (s : State) :
    readReg r (raiseFault e s) = readReg r s := by
  cases r <;> first | rfl | exact absurd rfl h | exact absurd rfl h'

/-- A result is seen in RES0 alone. -/
theorem readReg_setRes0 {r : Reg} (h : r ≠ .res0) (v : Word) (s : State) :
    readReg r (setRes0 v s) = readReg r s := by
  cases r <;> first | rfl | exact absurd rfl h

/-- A pair of results is seen in RES0 and RES1 alone. -/
theorem readReg_setRes01 {r : Reg} (h : r ≠ .res0) (h' : r ≠ .res1) (v w : Word) (s : State) :
    readReg r (setRes01 v w s) = readReg r s := by
  cases r <;> first | rfl | exact absurd rfl h | exact absurd rfl h'

/-- STATUS reads ERR in its four low bits (10_state.md R35). -/
theorem statusWord_err (st : Status) : (statusWord st).extractLsb' 0 4 = errCode st.err := by
  obtain ⟨e, f, b⟩ := st
  cases e <;> cases f <;> cases b <;> decide

/-- STATUS determines its fields: the reserved bits carry nothing. -/
theorem statusWord_injective {a b : Status} (h : statusWord a = statusWord b) : a = b := by
  obtain ⟨e, f, g⟩ := a
  obtain ⟨e', f', g'⟩ := b
  revert h
  cases e <;> cases f <;> cases g <;> cases e' <;> cases f' <;> cases g' <;> decide

end Sys2Proof.Machine
end

