-- ==== Sys2Proof/Laws/Ops.lean ====
section
/-! SUPPORT. What each shared operation of Sys2Proof/Machine/Ops.lean and Bus.lean can do, said once. -/

namespace Sys2Proof.Machine

/-- A bus error after the first changes nothing (60_exceptions.md R207). -/
theorem busError_again {off : BitVec 12} {wr : Bool} {size : AccessSize} {s : State}
    (h : s.status.busErr = true) : busError off wr size s = s := by
  simp [busError, h]

/-- The first bus error sets BUSERR, records the access, and takes one free value. -/
theorem busError_first {off : BitVec 12} {wr : Bool} {size : AccessSize} {s : State}
    (h : s.status.busErr = false) :
    busError off wr size s =
      { s with
        status := { s.status with busErr := true }
        beaddr := busErrorRecord off wr size s.host.freeIdx
        host := { s.host with freeIdx := s.host.freeIdx + 1 } } := by
  simp [busError, h]

/-- A bus error is seen in STATUS and BEADDR alone. -/
theorem readReg_busError {r : Reg} (h : r ≠ .status) (h' : r ≠ .beaddr) (off : BitVec 12) (wr : Bool)
    (size : AccessSize) (s : State) : readReg r (busError off wr size s) = readReg r s := by
  cases hb : s.status.busErr with
  | true => rw [busError_again hb]
  | false =>
    rw [busError_first hb]
    cases r <;> first | rfl | exact absurd rfl h | exact absurd rfl h'

/-- BUSERR is set after a bus error. -/
@[simp] theorem busError_busErr (off : BitVec 12) (wr : Bool) (size : AccessSize) (s : State) :
    (busError off wr size s).status.busErr = true := by
  cases hb : s.status.busErr <;> simp [busError, hb]

/-- A bus error leaves ERR and FAULT (60_exceptions.md R207). -/
@[simp] theorem busError_err (off : BitVec 12) (wr : Bool) (size : AccessSize) (s : State) :
    (busError off wr size s).status.err = s.status.err := by
  cases hb : s.status.busErr <;> simp [busError, hb]

@[simp] theorem busError_fault (off : BitVec 12) (wr : Bool) (size : AccessSize) (s : State) :
    (busError off wr size s).status.fault = s.status.fault := by
  cases hb : s.status.busErr <;> simp [busError, hb]

@[simp] theorem busError_cmd (off : BitVec 12) (wr : Bool) (size : AccessSize) (s : State) :
    (busError off wr size s).cmd = s.cmd := by
  cases hb : s.status.busErr <;> simp [busError, hb]

@[simp] theorem busError_fcmd (off : BitVec 12) (wr : Bool) (size : AccessSize) (s : State) :
    (busError off wr size s).fcmd = s.fcmd := by
  cases hb : s.status.busErr <;> simp [busError, hb]

/-- A bus error leaves the script, the returned data and the RESET level. -/
theorem busError_host (off : BitVec 12) (wr : Bool) (size : AccessSize) (s : State) :
    (busError off wr size s).host.script = s.host.script ∧
      (busError off wr size s).host.rdata = s.host.rdata ∧
      (busError off wr size s).host.resetIn = s.host.resetIn := by
  cases hb : s.status.busErr <;> simp [busError, hb]

/-- A read reaches a register only by an aligned word access at its offset (20_memory.md R72, R73). -/
theorem readTarget_eq_some {off : BitVec 12} {size : AccessSize} {r : Reg} :
    readTarget off size = some r ↔ size = .word ∧ regOffset r = off := by
  constructor
  · intro h
    by_cases hc : size = .word ∧ off.extractLsb' 0 2 = 0
    · rw [readTarget, if_pos hc] at h
      exact ⟨hc.1, regOffset_of_regAt h⟩
    · rw [readTarget, if_neg hc] at h
      exact absurd h (by simp)
  · rintro ⟨rfl, rfl⟩
    simp [readTarget]

/-- A write reaches a register as a read does, and never a read-only one (20_memory.md R75). -/
theorem writeTarget_eq_some {off : BitVec 12} {size : AccessSize} {r : Reg} :
    writeTarget off size = some r ↔ size = .word ∧ regOffset r = off ∧ regRight r ≠ .ro := by
  simp [writeTarget, Option.filter_eq_some_iff, readTarget_eq_some, and_assoc]

/-- An admitted read returns the register and changes no register (20_memory.md R74). -/
theorem busRead_admitted {off : BitVec 12} {size : AccessSize} {r : Reg} {s : State}
    (h : readTarget off size = some r) : busRead off size s = setRdata (some (readReg r s)) s := by
  simp [busRead, h]

/-- A read that is a bus error returns 0. -/
theorem busRead_error {off : BitVec 12} {size : AccessSize} {s : State}
    (h : readTarget off size = none) : busRead off size s = setRdata (some 0) (busError off false size s) := by
  simp [busRead, h]

/-- A write to CMD executes the word (10_state.md R36). -/
theorem busWrite_command {off : BitVec 12} {size : AccessSize} {w : Word} {s : State}
    (h : writeTarget off size = some .cmd) : busWrite off size w s = execWord w (setRdata none s) := by
  simp [busWrite, h]

/-- A write to any other register that admits it stores the word (20_memory.md R75). -/
theorem busWrite_store {off : BitVec 12} {size : AccessSize} {w : Word} {r : Reg} {s : State}
    (h : writeTarget off size = some r) (hr : r ≠ .cmd) :
    busWrite off size w s = .next (writeReg r w (setRdata none s)) := by
  rw [busWrite, h]
  cases r <;> first | rfl | exact absurd rfl hr

/-- A write that is a bus error stores nothing. -/
theorem busWrite_error {off : BitVec 12} {size : AccessSize} {w : Word} {s : State}
    (h : writeTarget off size = none) :
    busWrite off size w s = .next (busError off true size (setRdata none s)) := by
  simp [busWrite, h]

/-- A word that decodes runs its command with CMD holding the word (30_encoding.md R90). -/
theorem execWord_ok {w : Word} {i : Instr} {s : State} (h : decode w = .ok i) :
    execWord w s = exec i { s with cmd := w } := by
  simp [execWord, h]

/-- A word that does not decode raises ILLEGAL_CMD (60_exceptions.md R202). -/
theorem execWord_illegal {w : Word} {d : DecodeReject} {s : State} (h : decode w = .reject d) :
    execWord w s = .next (raiseFault .illegalCmd { s with cmd := w }) := by
  simp [execWord, h]

/-- RESET driven high, or released, gives every register its reset value (70_reset_and_hazards.md R230). -/
theorem readReg_driveReset {level : Bool} {s : State} (h : level = true ∨ s.host.resetIn = true) (r : Reg) :
    readReg r (driveReset level s) = readReg r State.reset := by
  have hc : (level || s.host.resetIn) = true := by simpa using h
  simp only [driveReset, hc, if_true]
  cases r <;> rfl

end Sys2Proof.Machine
end

