-- ==== Sys2Proof/Laws/PerInstr.lean ====
section
/-! SUPPORT. Facts about every instruction as syntax, one lemma per constructor. Family `EncodeRow`: the
word of a well-formed instruction lies in the instruction's own row of the opcode map
(30_encoding.md R93). -/

namespace Sys2Proof.Laws.EncodeRow

/-- The word of a well-formed instruction is its row's. -/
def Statement (i : Instr) : Prop := i.wf = true → (rowOf i).admits (encode i) = true

/-- The PLLS_UPDATE word keeps its pattern under the row's mask, for any shifts that fit. -/
theorem plls_masked (pattern : Word) (hp : pattern &&& 0xFFE0E0FF#32 = pattern) :
    ∀ sf sp : Nat, sf < 32 → sp < 32 → pllsWord pattern sf sp &&& 0xFFE0E0FF#32 = pattern := by
  have key : ∀ sf sp : Fin 32,
      ((BitVec.ofNat 32 sp.val <<< 16) ||| (BitVec.ofNat 32 sf.val <<< 8)) &&& 0xFFE0E0FF#32 = 0#32 := by
    decide +kernel
  intro sf sp hf hs
  have h := key ⟨sf, hf⟩ ⟨sp, hs⟩
  rw [pllsWord, BitVec.or_assoc, BitVec.and_comm, BitVec.and_or_distrib_left, BitVec.and_comm _ pattern,
    hp, BitVec.and_comm, h, BitVec.or_zero]

theorem cossin : Statement .cossin := fun _ => by decide
theorem iirUpdate : Statement .iirUpdate := fun _ => by decide
theorem iirUpdateHold : Statement .iirUpdateHold := fun _ => by decide
theorem iirSetpi : Statement .iirSetpi := fun _ => by decide
theorem iirSetxoff : Statement .iirSetxoff := fun _ => by decide
theorem iirGetxoff : Statement .iirGetxoff := fun _ => by decide
theorem iirGetk : Statement .iirGetk := fun _ => by decide
theorem pllsUpdate (sf sp : Nat) : Statement (.pllsUpdate sf sp) := fun h => by
  simp only [Instr.wf, shiftFits, Bool.and_eq_true, decide_eq_true_eq] at h
  simpa [OpRow.admits, rowOf, encode] using plls_masked 0x01000020#32 (by decide) sf sp h.1 h.2
theorem pllsUpdateMiss (sf sp : Nat) : Statement (.pllsUpdateMiss sf sp) := fun h => by
  simp only [Instr.wf, shiftFits, Bool.and_eq_true, decide_eq_true_eq] at h
  simpa [OpRow.admits, rowOf, encode] using plls_masked 0x00000020#32 (by decide) sf sp h.1 h.2
theorem pllsRead : Statement .pllsRead := fun _ => by decide
theorem pllgUpdate : Statement .pllgUpdate := fun _ => by decide
theorem pllgUpdateMiss : Statement .pllgUpdateMiss := fun _ => by decide
theorem pllgRead : Statement .pllgRead := fun _ => by decide

end Sys2Proof.Laws.EncodeRow
end

