-- ==== Sys2Proof/Laws/Step.lean ====
section
/-! SUPPORT. The step and the dispatch said once: which event a step serves, and each command's meaning
as one equation. -/

namespace Sys2Proof.Machine

/-- With nothing left to serve a step changes nothing (log entry 1). -/
theorem step_idle {s : State} (h : s.host.script = []) : step s = .next s := by
  simp [step, serveNext, h]

/-- A step serves the first event of the script. -/
theorem step_serve {s : State} {e : HostEvent} {es : List HostEvent} (h : s.host.script = e :: es) :
    step s = serve e (setScript es s) := by
  simp [step, serveNext, h]

/-- What a step that answers a next state did: nothing, RESET, a read, or a write. -/
theorem step_cases {s t : State} (h : step s = .next t) :
    (s.host.script = [] ∧ t = s) ∨
    (∃ level es, s.host.script = .reset level :: es ∧ t = driveReset level (setScript es s)) ∨
    (∃ off size es, s.host.script = .read off size :: es ∧ s.host.resetIn = false ∧
      t = busRead off size (setScript es s)) ∨
    (∃ off size w es, s.host.script = .write off size w :: es ∧ s.host.resetIn = false ∧
      busWrite off size w (setScript es s) = .next t) := by
  cases hs : s.host.script with
  | nil =>
    rw [step_idle hs] at h
    exact .inl ⟨rfl, by simpa using h.symm⟩
  | cons e es =>
    rw [step_serve hs] at h
    cases e with
    | reset level => exact .inr (.inl ⟨level, es, rfl, by simpa [serve] using h.symm⟩)
    | read off size =>
      cases hr : s.host.resetIn with
      | true => simp [serve, hr] at h
      | false => exact .inr (.inr (.inl ⟨off, size, es, rfl, rfl, by simpa [serve, hr] using h.symm⟩))
    | write off size w =>
      cases hr : s.host.resetIn with
      | true => simp [serve, hr] at h
      | false => exact .inr (.inr (.inr ⟨off, size, w, es, rfl, rfl, by simpa [serve, hr] using h⟩))

/-- What a write that answers a next state did: executed, raised ILLEGAL_CMD, stored, or was a bus error. -/
theorem busWrite_cases {off : BitVec 12} {size : AccessSize} {w : Word} {s t : State}
    (h : busWrite off size w s = .next t) :
    (∃ i, writeTarget off size = some .cmd ∧ decode w = .ok i ∧
      exec i { setRdata none s with cmd := w } = .next t) ∨
    (∃ d, writeTarget off size = some .cmd ∧ decode w = .reject d ∧
      t = raiseFault .illegalCmd { setRdata none s with cmd := w }) ∨
    (∃ r, writeTarget off size = some r ∧ r ≠ .cmd ∧ t = writeReg r w (setRdata none s)) ∨
    (writeTarget off size = none ∧ t = busError off true size (setRdata none s)) := by
  cases ht : writeTarget off size with
  | none =>
    rw [busWrite_error ht] at h
    exact .inr (.inr (.inr ⟨rfl, by simpa using h.symm⟩))
  | some r =>
    by_cases hr : r = .cmd
    · subst hr
      rw [busWrite_command ht] at h
      cases hd : decode w with
      | ok i => exact .inl ⟨i, rfl, rfl, by rwa [execWord_ok hd] at h⟩
      | reject d =>
        rw [execWord_illegal hd] at h
        exact .inr (.inl ⟨d, rfl, rfl, by simpa using h.symm⟩)
    · rw [busWrite_store ht hr] at h
      exact .inr (.inr (.inl ⟨r, rfl, hr, by simpa using h.symm⟩))

/-- The step of a placed command word is the write of that word to CMD. -/
theorem step_placeCommand (w : Word) (s : State) :
    step (placeCommand w s) =
      execWord w { s with host := { s.host with rdata := none, resetIn := false } } := by
  have h : writeTarget (regOffset .cmd) .word = some .cmd := by decide
  simp [step, serveNext, placeCommand, commandWrite, serve, setScript, busWrite, h, setRdata]

end Sys2Proof.Machine
end

