-- ==== Sys2Proof/Tests/Slice0.lean ====
section
/-! SUPPORT. Tests on fixed values, each about one step, and a witness for each statement's hypotheses.
Expected values come from the worked examples of 95_test_vectors.md and the rules named, not from the
model. -/

namespace Sys2Proof.Tests

open Sys2Proof.Machine

/- Each `decide +kernel` holds its thread until the kernel has answered. One theorem after another, so that
the tests never hold dozens of threads, and their stacks, at once. -/
set_option Elab.async false

/-! ### Helpers -/

/-- A command word from its fields, most significant first, as the diagram of 30_encoding.md R91 draws it. -/
def fields (h p : BitVec 1) (sp sf : BitVec 5) (op : Byte) : Word :=
  0b000000#6 ++ h ++ p ++ 0b000#3 ++ sp ++ 0b000#3 ++ sf ++ op

/-- The registers rs after the outcome, where it is a next state. -/
def seen (rs : List Reg) : Result → Option (List Word)
  | .next t => some (rs.map fun r => readReg r t)
  | .fault _ => none
  | .refused _ => none

/-- The data the bus returned, where the outcome is a next state. -/
def returned : Result → Option (Option Word)
  | .next t => some t.host.rdata
  | .fault _ => none
  | .refused _ => none

/-- One step that serves the event e from the state s. -/
def stepOn (e : HostEvent) (s : State) : Result := step (setScript [e] s)

/-- One step that writes the word w to CMD. -/
def command (w : Word) (s : State) : Result := stepOn (.write 0x00C .word w) s

/-- ARG0–ARG2 set. -/
def args (a b c : Word) (s : State) : State := { s with arg0 := a, arg1 := b, arg2 := c }

/-- Configuration A of 95_test_vectors.md section 3. -/
def cfgA : IirCfg := ⟨0x3F000000, 0x3E800000, 0, 0, 0, 0, 0xC1200000, 0x41200000⟩

/-- The slots XY0–XY4. -/
def xyRegs : List Reg := [.iirXy0, .iirXy1, .iirXy2, .iirXy3, .iirXy4]

/-- The taps BA0–BA4. -/
def baRegs : List Reg := [.iirBa0, .iirBa1, .iirBa2, .iirBa3, .iirBa4]

/-! ### WellFormed: each check refuses an ill-formed term (30_encoding.md R95) -/

theorem test_wf_refuses_sf_32 : (Instr.pllsUpdate 32 1).wf = false := by decide
theorem test_wf_refuses_sp_32 : (Instr.pllsUpdate 1 32).wf = false := by decide
theorem test_wf_refuses_miss_sf_32 : (Instr.pllsUpdateMiss 32 1).wf = false := by decide
theorem test_wf_refuses_miss_sp_32 : (Instr.pllsUpdateMiss 1 32).wf = false := by decide
theorem test_wf_takes_31 : (Instr.pllsUpdate 31 0).wf = true := by decide

/-! ### Decode: one word of each row written out from R91 and R93 (95_test_vectors.md section 7) -/

theorem test_decode_cossin : decode (fields 0 0 0 0 0x01) = .ok .cossin := by decide
theorem test_decode_iirUpdate : decode (fields 0 0 0 0 0x10) = .ok .iirUpdate := by decide
theorem test_decode_iirUpdateHold : decode (fields 1 0 0 0 0x10) = .ok .iirUpdateHold := by decide
theorem test_decode_iirSetpi : decode (fields 0 0 0 0 0x11) = .ok .iirSetpi := by decide
theorem test_decode_iirSetxoff : decode (fields 0 0 0 0 0x12) = .ok .iirSetxoff := by decide
theorem test_decode_iirGetxoff : decode (fields 0 0 0 0 0x13) = .ok .iirGetxoff := by decide
theorem test_decode_iirGetk : decode (fields 0 0 0 0 0x14) = .ok .iirGetk := by decide
theorem test_decode_pllsUpdate :
    decode (fields 0 1 0b00100 0b01000 0x20) = .ok (.pllsUpdate 8 4) := by decide
theorem test_decode_pllsUpdate_31 :
    decode (fields 0 1 0b11111 0b11111 0x20) = .ok (.pllsUpdate 31 31) := by decide
theorem test_decode_pllsUpdateMiss :
    decode (fields 0 0 0b00100 0b01000 0x20) = .ok (.pllsUpdateMiss 8 4) := by decide
theorem test_decode_pllsRead : decode (fields 0 0 0 0 0x21) = .ok .pllsRead := by decide
theorem test_decode_pllgUpdate : decode (fields 0 1 0 0 0x30) = .ok .pllgUpdate := by decide
theorem test_decode_pllgUpdateMiss : decode (fields 0 0 0 0 0x30) = .ok .pllgUpdateMiss := by decide
theorem test_decode_pllgRead : decode (fields 0 0 0 0 0x31) = .ok .pllgRead := by decide

/-- V-EN-2, 5, 6, 11–14, 17, 21: a bit that is not admitted. -/
theorem test_decode_bits_not_admitted :
    [0x01000001#32, 0x01000010#32, 0x00000110#32, 0x00002020#32, 0x00200020#32, 0x04000020#32,
      0x02000020#32, 0x00000830#32, 0x80000014#32].map decode =
        List.replicate 9 (.reject .bitNotAdmitted) := by decide

/-- V-EN-19, V-EN-20: a reserved opcode. -/
theorem test_decode_reserved_opcodes :
    decode 0x00000015#32 = .reject .reservedOpcode ∧ decode 0x00000000#32 = .reject .reservedOpcode := by
  decide

/-- R99: three byte lanes are no command. -/
theorem test_decode_too_short : decodeLanes [0x01, 0x00, 0x00] = .reject .tooShort := by decide

/-- R71 and R102's example: 0x01040820 in byte lanes, the low byte first. -/
theorem test_lanes_low_byte_first :
    lanesOf 0x01040820#32 = [0x20, 0x08, 0x04, 0x01] ∧ encode (.pllsUpdate 8 4) = 0x01040820#32 ∧
      encode (.pllsUpdateMiss 8 4) = 0x00040820#32 := by decide

theorem test_decodeTableWord : decodeTableWord 32 0x02000010 = some .iirUpdateHold := by decide

/-- Each row of the table runs as the first instruction after reset. -/
theorem test_every_row_steps :
    ∀ r ∈ opRows, (seen [.cmd] (step (State.reset.withFetchWord 32 r.pattern.toNat))) = some [r.pattern] := by
  decide +kernel

/-! ### COSSIN (95_test_vectors.md section 2) -/

/-- V-CS-17. -/
theorem test_cossin_octant_0 :
    seen [.res0, .res1, .status] (command 0x01 (args 0x12345678 0 0 State.reset))
      = some [0x39B7A0A3, 0x1BA75657, 0] := by decide +kernel

/-- V-CS-13. -/
theorem test_cossin_octant_5 :
    seen [.res0, .res1] (command 0x01 (args 0xA0000000 0 0 State.reset))
      = some [0xD2BEB911, 0xD2BEAF13] := by decide +kernel

/-! ### IIR (95_test_vectors.md sections 3 and 4) -/

/-- V-IIR-3: from the state V-IIR-2 leaves. -/
theorem test_iirUpdate_shifts_and_filters :
    seen (.res0 :: xyRegs) (command 0x10 (args 0xBF800000 0 0
      { State.reset with iir := cfgA, xy := ⟨0x40800000, 0x40000000, 0x40200000, 0x3F800000, 0⟩ }))
      = some [0x3F000000, 0xBF800000, 0x40800000, 0x3F000000, 0x40200000, 0x3F800000] := by decide +kernel

/-- V-IIR-7: inverted bounds give y_min. -/
theorem test_iirUpdate_inverted_bounds :
    seen (.res0 :: xyRegs) (command 0x10 (args 0x3E800000 0 0
      { State.reset with iir := ⟨0x3F800000, 0, 0, 0, 0, 0, 0x3F800000, 0xBF800000⟩ }))
      = some [0x3F800000, 0x3E800000, 0, 0x3F800000, 0, 0] := by decide +kernel

/-- V-IIR-5. -/
theorem test_iirUpdateHold_replays :
    seen (.res0 :: xyRegs) (command 0x02000010 (args 0x42C80000 0 0
      { State.reset with iir := cfgA, xy := ⟨0x40000000, 0, 0x3F800000, 0, 0⟩ }))
      = some [0x3F800000, 0x42C80000, 0x40000000, 0x3F800000, 0x3F800000, 0] := by decide +kernel

/-- V-IIR-6: the replayed value is clamped. -/
theorem test_iirUpdateHold_clamps :
    seen (.res0 :: xyRegs) (command 0x02000010 (args 0x40800000 0 0
      { State.reset with
        iir := { cfgA with ymax := 0x3F000000 }
        xy := ⟨0x40800000, 0x42C80000, 0x41200000, 0x3F800000, 0x3F800000⟩ }))
      = some [0x3F000000, 0x40800000, 0x40800000, 0x3F000000, 0x41200000, 0x3F800000] := by decide +kernel

/-- V-PI-6: a rounded synthesis with ki's sign turned. -/
theorem test_iirSetpi_rounds :
    seen (.status :: baRegs) (command 0x11 (args 0x40000000 0xBF000000 0x3F800000 State.reset))
      = some [0, 0x40155555, 0xBEAAAAAD, 0, 0x3EAAAAAC, 0] := by decide +kernel

/-- V-PI-7: the taps stay. -/
theorem test_iirSetpi_degenerate :
    seen (.status :: baRegs) (command 0x11 (args 0x3F800000 0x3089705F 0
      { State.reset with iir := ⟨0x41100000, 0x41100000, 0x41100000, 0x41100000, 0x41100000, 0, 0, 0⟩ }))
      = some [3, 0x41100000, 0x41100000, 0x41100000, 0x41100000, 0x41100000] := by decide +kernel

/-- V-OF-2. -/
theorem test_iirSetxoff_scales :
    seen [.iirYoff, .status] (command 0x12 (args 0x40000000 0 0
      { State.reset with iir := ⟨0x3FC00000, 0xBF000000, 0, 0x3F800000, 0, 0, 0, 0⟩ }))
      = some [0x40000000, 0] := by decide +kernel

/-- V-OF-4. -/
theorem test_iirGetxoff_divides :
    seen [.res0, .status] (command 0x13
      { State.reset with iir := ⟨0x3DCCCCCD, 0x3E4CCCCD, 0x3E99999A, 0, 0, 0x3F800000, 0, 0⟩ })
      = some [0x3FD55555, 0] := by decide +kernel

/-- V-OF-5: RES0 stays. -/
theorem test_iirGetxoff_undefined :
    seen [.res0, .status] (command 0x13
      { State.reset with iir := ⟨0x322BCC77, 0, 0, 0, 0, 0, 0, 0⟩, res0 := 0x322BCC77 })
      = some [0x322BCC77, 4] := by decide +kernel

/-- V-OF-4. -/
theorem test_iirGetk_sums :
    seen [.res0] (command 0x14
      { State.reset with iir := ⟨0x3DCCCCCD, 0x3E4CCCCD, 0x3E99999A, 0, 0, 0x3F800000, 0, 0⟩ })
      = some [0x3F19999A] := by decide +kernel

/-! ### PLLS (95_test_vectors.md section 5) -/

/-- V-PS-4: the bias wraps. -/
theorem test_pllsUpdate_bias_wraps :
    seen [.res0, .res1, .pllsX, .pllsF, .pllsY] (command 0x01010120 (args 0x7FFFFFFF 0 0 State.reset))
      = some [0xC8000000, 0xB0000000, 0x7FFFFFFF, 0xC0000000, 0xB0000000] := by decide +kernel

/-- V-PS-9b: sf and sp told apart, from a state that is not zero. -/
theorem test_pllsUpdate_tracks :
    seen [.res0, .res1, .pllsX, .pllsF, .pllsY, .pllsPh, .pllsFr] (command 0x01040820 (args 0x00030000 0 0
      { State.reset with plls := ⟨0x00010100, 0x00000100, 0x00002071, 0, 0⟩ }))
      = some [0x0000395D, 0x00002FD8, 0x00030000, 0x000002FE, 0x00005049, 0x0000395D, 0x00002FD8] := by
  decide +kernel

/-- V-PS-7b: dy is odd and negative, so its half floors. -/
theorem test_pllsUpdateMiss_extrapolates :
    seen [.res0, .res1, .pllsX, .pllsF, .pllsY] (command 0x00040420
      { State.reset with plls := ⟨0x1100, 0x100, 0x1010, 0x1008, 0x110⟩ })
      = some [0x00001118, 0x0000010F, 0x00001200, 0x00000100, 0x0000111F] := by decide +kernel

/-- V-PS-10: FCMD and STATUS change, PLLS and the results do not. -/
theorem test_pllsUpdate_shift_range :
    seen [.status, .fcmd, .pllsX, .pllsF, .pllsY, .res0, .res1] (command 0x011F0820 (args 0x20000 0 0
      { State.reset with plls := ⟨0x10000, 0x100, 0x1078, 0x87C, 0x1078⟩, res0 := 0x87C, res1 := 0x1078 }))
      = some [0x102, 0x011F0820, 0x10000, 0x100, 0x1078, 0x87C, 0x1078] := by decide +kernel

/-- V-PS-12. -/
theorem test_pllsRead_latches :
    seen [.res0, .res1] (command 0x21 { State.reset with plls := ⟨0x10000, 0x100, 0x1078, 0x87C, 0x1078⟩ })
      = some [0x87C, 0x1078] := by decide +kernel

/-! ### PLLG (95_test_vectors.md section 6) -/

/-- V-PG-1c: from the state V-PG-1b leaves. -/
theorem test_pllgUpdate_tracks :
    seen [.pllgX, .pllgFHi, .pllgFLo, .pllgYHi, .pllgYLo, .pllgF0, .pllgY0]
      (command 0x01000030 (args 0x00030000 0x01000000 0
        { State.reset with pllg := ⟨0x101FF, 0, 0x200, 0, 0x4FE, 0x1FF, 0x3FE⟩ }))
      = some [0x30000, 0x5F8, 0x02000000, 0xEE8, 0x0D000000, 0x7F3, 0xBF1] := by decide +kernel

/-- V-PG-5: the 64-bit sums wrap. -/
theorem test_pllgUpdate_wraps :
    seen [.pllgX, .pllgFHi, .pllgFLo, .pllgYHi, .pllgYLo, .pllgF0, .pllgY0]
      (command 0x01000030 (args 0x80000000 0x80000000 0 State.reset))
      = some [0x80000000, 0x80000000, 0, 0, 0, 0x20000000, 0x20000000] := by decide +kernel

/-- V-PG-1d. -/
theorem test_pllgUpdateMiss_advances :
    seen [.pllgX, .pllgFHi, .pllgFLo, .pllgYHi, .pllgYLo, .pllgF0, .pllgY0] (command 0x30
      { State.reset with pllg := ⟨0x30000, 0x02000000, 0x5F8, 0x0D000000, 0xEE8, 0x7F3, 0xBF1⟩ })
      = some [0x307F3, 0x5F8, 0x02000000, 0x14E0, 0x0F000000, 0x7F3, 0x13E4] := by decide +kernel

/-- P3's last line. -/
theorem test_pllgRead_estimates :
    seen [.res0, .res1] (command 0x31
      { State.reset with pllg := ⟨0x307F3, 0x02000000, 0x5F8, 0x0F000000, 0x14E0, 0x7F3, 0x13E4⟩ })
      = some [0x13E4, 0x7F3] := by decide +kernel

/-! ### Errors, bus errors and reset (95_test_vectors.md section 8) -/

/-- V-ER-1 and V-ER-2: only the first faulting word is recorded. -/
theorem test_illegal_word_recorded_once :
    seen [.cmd, .status, .fcmd] (command 0xFF State.reset) = some [0xFF, 0x101, 0xFF] ∧
      seen [.cmd, .status, .fcmd] (command 0
        { State.reset with cmd := 0xFF, fcmd := 0xFF, status := ⟨.illegalCmd, true, false⟩ })
        = some [0, 0x101, 0xFF] := by decide +kernel

/-- V-BE-1, V-BE-3, V-BE-4: bus errors of reads, which return 0. -/
theorem test_bus_errors_of_reads :
    seen [.status, .beaddr] (stepOn (.read 0x010 .half) State.reset) = some [0x200, 0x00002010] ∧
      seen [.status, .beaddr] (stepOn (.read 0x01C .word) State.reset) = some [0x200, 0x0000401C] ∧
      seen [.status, .beaddr] (stepOn (.read 0x012 .word) State.reset) = some [0x200, 0x00004012] ∧
      returned (stepOn (.read 0x012 .word) State.reset) = some (some 0) := by decide +kernel

/-- V-BE-2, V-BE-5, V-BE-6: bus errors of writes, which store and run nothing. -/
theorem test_bus_errors_of_writes :
    seen [.status, .beaddr] (stepOn (.write 0x000 .word 0) State.reset) = some [0x200, 0x00005000] ∧
      seen [.res0, .beaddr] (stepOn (.write 0x020 .word 7) State.reset) = some [0, 0x00005020] ∧
      seen [.status, .cmd, .beaddr] (stepOn (.write 0x00C .byte 0x20)
        { State.reset with status := ⟨.shiftRange, true, false⟩, cmd := 0x01040020 })
        = some [0x302, 0x01040020, 0x0000100C] := by decide +kernel

/-- V-RS-1: ID and CFG read their constants, and a read changes nothing. -/
theorem test_reset_reads :
    returned (stepOn (.read 0x000 .word) State.reset) = some (some 0x49445350) ∧
      returned (stepOn (.read 0x004 .word) State.reset) = some (some 0x00003D17) ∧
      returned (stepOn (.read 0x0B8 .word) State.reset) = some (some 0) := by decide +kernel

/-- V-RS-2: RESET clears the sticky bits and their records. -/
theorem test_reset_event_clears :
    seen [.status, .fcmd, .beaddr, .arg0] (stepOn (.reset true)
      { State.reset with
        status := ⟨.ok, true, true⟩, fcmd := 0xFF, beaddr := ⟨0x12, false, 2⟩, arg0 := 5 })
      = some [0, 0, 0, 0] := by decide +kernel

/-- R75: a write stores every bit of its word in its register alone. -/
theorem test_write_stores :
    seen [.pllgFHi, .pllgFLo, .status] (stepOn (.write 0x0A8 .word 0xFFFFFFFF) State.reset)
      = some [0xFFFFFFFF, 0, 0] := by decide +kernel

/-- R103: a pseudo-instruction is its accesses, in order. -/
theorem test_pseudo_expands :
    scriptOf (expandPseudo (.pllgStep 3 5))
      = [.write 0x010 .word 3, .write 0x014 .word 5, .write 0x00C .word 0x01000030] := by decide

/-- R102: f:1.5 assembles to its pattern, and f:0.1 to the nearest one. -/
theorem test_float_literals :
    floatLit false 3 2 = 0x3FC00000 ∧ floatLit true 1 10 = 0xBDCCCCCD := by decide +kernel

/-- Ties go to even, and overflow to ∞ (41_biquad_iir.md R131): 2^24 + 1 and 2^24 + 3, then the greatest
finite value and half a step. -/
theorem test_fadd_ties_and_overflow :
    fadd 0x4B800000 0x3F800000 = 0x4B800000 ∧ fadd 0x4B800001 0x3F800000 = 0x4B800002 ∧
      fadd 0x7F7FFFFF 0x73000000 = 0x7F800000 ∧ fadd 0x7F7FFFFF 0x72FFFFFF = 0x7F7FFFFF := by decide +kernel

/-- Subnormals are kept (41_biquad_iir.md R132): half of the least normal value, and half of the least
subnormal, a tie, which rounds to zero. -/
theorem test_fmul_subnormal :
    fmul 0x00800000 0x3F000000 = 0x00400000 ∧ fmul 0x80000001 0x3F000000 = 0x80000000 := by decide +kernel

/-! ### Witnesses: each statement's hypotheses are met, clause by clause -/

/-- The outcome of a command as a state, for the witnesses. -/
def outcome (o : Result) : State :=
  match o with
  | .next t => t
  | .fault _ => State.reset
  | .refused _ => State.reset

/-- Every command answers a next state. -/
theorem exec_outcome (i : Instr) (s : State) : exec i s = .next (outcome (exec i s)) := by
  cases i <;> rfl

theorem witness_DecodeOfEncode :
    (Instr.pllsUpdate 0 31).wf = true ∧ (Instr.pllsUpdateMiss 31 0).wf = true ∧ Instr.cossin.wf = true := by
  decide

theorem witness_EncodeOfDecode : decode 0x011F1F20#32 = .ok (.pllsUpdate 31 31) := by decide

theorem witness_Rows : rowOf .cossin ∈ opRows ∧ rowOf .pllgRead ∈ opRows ∧ rowOf .cossin ≠ rowOf .pllgRead ∧
    (rowOf .cossin).admits 1 = true := by decide

theorem witness_ReservedOpcodes :
    (∀ n ∈ [0x00, 0x02, 0x0F, 0x15, 0x1F, 0x22, 0x2F, 0x32, 0xFF], reservedOpValue n = true) ∧
      (∀ n ∈ [0x01, 0x10, 0x14, 0x20, 0x21, 0x30, 0x31], reservedOpValue n = false) := by decide

theorem witness_ShiftFields :
    decode 0x011F1F20#32 = .ok (.pllsUpdate 31 31) ∧ opField 0x011F1F20#32 = 0x20 ∧
      decode 0x00000020#32 = .ok (.pllsUpdateMiss 0 0) ∧ decode 0x02000010#32 = .ok .iirUpdateHold ∧
      opField 0x02000010#32 ≠ 0x20 := by decide

theorem witness_StepRuns : ∃ (s : State) (w : Word) (i : Instr) (es : List HostEvent),
    s.host.script = .write 0x00C .word w :: es ∧ s.host.resetIn = false ∧ decode w = .ok i :=
  ⟨setScript [.write 0x00C .word 1] State.reset, 1, .cossin, [], rfl, rfl, by decide⟩

theorem witness_NoOtherAccess : ∃ (s t : State) (e : HostEvent) (es : List HostEvent),
    s.host.script = e :: es ∧ isResetEvent e = false ∧ (∀ w, e ≠ .write 0x00C .word w) ∧ step s = .next t :=
  ⟨setScript [.write 0x010 .word 7] State.reset, _, .write 0x010 .word 7, [], rfl, rfl, by simp, rfl⟩

theorem witness_EventsServed : ∃ s t : State, step s = .next t ∧ s.host.script ≠ [] ∧
    ∀ e, s.host.script.head? = some e → isResetEvent e = false :=
  ⟨setScript [.read 0x000 .word] State.reset, _, rfl, by simp, by simp [isResetEvent]⟩

/-- Both clauses: an access under RESET, and an event that is served. -/
theorem witness_StepStops :
    (∃ s : State, (∃ e, s.host.script.head? = some e ∧ isResetEvent e = false) ∧ s.host.resetIn = true) ∧
    (∃ s : State, s.host.script.head? = some (.read 0 .word) ∧ s.host.resetIn = false) :=
  ⟨⟨setHost ⟨[.read 0 .word], none, true, 0⟩ State.reset, ⟨_, rfl, rfl⟩, rfl⟩,
    ⟨setHost ⟨[.read 0 .word], none, false, 0⟩ State.reset, rfl, rfl⟩⟩

theorem witness_AdmittedRead : ∃ (s : State) (r : Reg) (es : List HostEvent),
    s.host.script = .read (regOffset r) .word :: es ∧ s.host.resetIn = false :=
  ⟨setScript [.read (regOffset .pllgY0) .word] State.reset, .pllgY0, [], rfl, rfl⟩

/-- A RW register, an RO register and a reserved offset. -/
theorem witness_WriteStores :
    (∃ (s : State) (es : List HostEvent), s.host.script = .write 0x0B8 .word 9 :: es ∧ s.host.resetIn = false) ∧
    (regAt 0x0B8 = some .pllgY0 ∧ regRight .pllgY0 = .rw) ∧
    (regAt 0x090 = some .pllsFr ∧ regRight .pllsFr = .ro) ∧ regAt 0x0BC = none :=
  ⟨⟨setScript [.write 0x0B8 .word 9] State.reset, [], rfl, rfl⟩, by decide, by decide, by decide⟩

/-- Each cause at a boundary, in a state that has seen no bus error and in one that has. -/
theorem witness_BusErrors :
    (∃ (s : State) (es : List HostEvent),
      s.host.script = .read 0xFFC .other :: es ∧ s.host.resetIn = false ∧ s.status.busErr = false) ∧
    (∃ (s : State) (es : List HostEvent),
      s.host.script = .write 0x000 .word 0 :: es ∧ s.host.resetIn = false ∧ s.status.busErr = true) ∧
    AccessSize.other ≠ .word ∧ (0x003#12).toNat % 4 ≠ 0 ∧ regAt 0xFFC = none ∧
    (regAt 0x000 = some .id ∧ regRight .id = .ro) :=
  ⟨⟨setScript [.read 0xFFC .other] State.reset, [], rfl, rfl, rfl⟩,
    ⟨setScript [.write 0x000 .word 0] { State.reset with status := ⟨.ok, false, true⟩ }, [], rfl, rfl, rfl⟩,
    by decide, by decide, by decide, by decide⟩

/-- The edges of the reserved ranges and of the registers beside them. -/
theorem witness_RegisterMap :
    (∀ n ∈ [0x01C, 0x030, 0x03C, 0x074, 0x07C, 0x094, 0x09C, 0x0BC, 0xFFC], reservedOffset n = true) ∧
    (∀ n ∈ [0x018, 0x020, 0x02C, 0x040, 0x070, 0x080, 0x090, 0x0A0, 0x0B8], reservedOffset n = false) := by
  decide

theorem witness_Window :
    windowOffset 0x1000 0x1FFF = some 0xFFF ∧ windowOffset 0x1000 0x0FFF = none ∧
      windowOffset 0x1000 0x2000 = none := by decide

theorem witness_ByteLanes : byteLane 0x01040820 3 = 0x01 ∧ byteLane 0x01040820 0 = 0x20 := by decide

theorem witness_CossinBounded : ∃ s t : State, exec .cossin s = .next t :=
  ⟨State.reset, _, exec_outcome _ _⟩

theorem witness_CossinSymmetry : ∃ (s t q h n : State) (p : Word),
    exec .cossin { s with arg0 := p } = .next t ∧
    exec .cossin { s with arg0 := p + 0x40000000 } = .next q ∧
    exec .cossin { s with arg0 := p + 0x80000000 } = .next h ∧
    exec .cossin { s with arg0 := ~~~p } = .next n :=
  ⟨State.reset, _, _, _, _, 0x1FFFFFFF,
    exec_outcome _ _, exec_outcome _ _, exec_outcome _ _, exec_outcome _ _⟩

theorem witness_CossinSums : ∃ S : Finset Word, S.Nonempty ∧ ∀ p ∈ S, p + 0x80000000 ∈ S :=
  ⟨{0, 0x80000000}, ⟨0, by simp⟩, by
    intro p hp
    simp only [Finset.mem_insert, Finset.mem_singleton] at hp ⊢
    obtain rfl | rfl := hp
    · right; rfl
    · left; rfl⟩

/-- Finite operands, the greatest and a zero, and a divisor that is not zero. -/
theorem witness_Rounds : isFin 0x7F7FFFFF = true ∧ isFin 0x80000000 = true ∧ isZero 0x00000001 = false := by
  decide

theorem witness_SpecialCases :
    isNaN 0xFFFFFFFF = true ∧ isFin 0x7F7FFFFF = true ∧ isZero 0x7F7FFFFF = false ∧
      isNaN 0x7F800000 = false ∧ isNaN (fmul 0x7F800000 0xBF800000) = false ∧
      isNaN (fdiv 0x3F800000 0x7F800000) = false := by decide +kernel

/-- A sum and a difference that vanish: the greatest finite values, and zeros of both signs. -/
theorem witness_SpecialCases_zero_sum :
    fval 0x7F7FFFFF + fval 0xFF7FFFFF = 0 ∧ fval 0x80000000 + fval 0x80000000 = 0 ∧
      isFin 0x80000000 = true ∧ fval 0x80000000 = fval 0 := by decide +kernel

theorem witness_NaNs :
    isNaN (fadd 0x7F800001 0) = true ∧ isNaN (fsub 0x7F800000 0x7F800000) = true ∧
      isNaN (fmul 0x7F800000 0) = true ∧ isNaN (fdiv 0 0) = true ∧ regRight .iirXy4 = .rw := by
  decide +kernel

theorem witness_Signs :
    isNaN 0x7FC00000 = true ∧ isNaN 0x7F800000 = false ∧ small 0x807FFFFF = true := by decide +kernel

/-- One pattern of each clause: NaN y, ordered bounds with y inside, inverted bounds, NaN bounds, zeros. -/
theorem witness_Clamp :
    isNaN 0x7FC00001 = true ∧ fval 0xBF800000 ≤ fval 0x3F800000 ∧ fval 0xBF800000 ≤ fval 0 ∧
      fval 0 ≤ fval 0x3F800000 ∧ flt 0xBF800000 0x3F800000 = true ∧ isZero 0x80000000 = true := by
  decide +kernel

/-- A NaN input, an infinite input with b0 = 0, and the example's configuration. -/
theorem witness_IirUpdate :
    isNaN (args 0x7F800001 0 0 State.reset).arg0 = true ∧
      (isInf (args 0xFF800000 0 0 State.reset).arg0 = true ∧ isZero State.reset.iir.ba0 = true) ∧
      cfgA = ⟨0x3F000000, 0x3E800000, 0, 0, 0, 0, 0xC1200000, 0x41200000⟩ ∧
      exec .iirUpdate State.reset = .next (outcome (exec .iirUpdate State.reset)) :=
  ⟨by decide, by decide, rfl, exec_outcome _ _⟩

theorem witness_IirOutputDepends : ∃ s s' t t' : State, s ≠ s' ∧ s.iir = s'.iir ∧ s.xy = s'.xy ∧
    s.arg0 = s'.arg0 ∧ exec .iirUpdate s = .next t ∧ exec .iirUpdate s' = .next t' :=
  ⟨State.reset, { State.reset with res0 := 1 }, _, _, by decide, rfl, rfl, rfl,
    exec_outcome _ _, exec_outcome _ _⟩

theorem witness_ClampedOutput : ∃ (s t u v : State) (x x' : Word), exec .iirUpdate s = .next t ∧
    exec .iirUpdateHold { t with arg0 := x } = .next u ∧ exec .iirUpdate { u with arg0 := x' } = .next v :=
  ⟨State.reset, _, _, _, 1, 2, exec_outcome _ _, exec_outcome _ _, exec_outcome _ _⟩

theorem witness_Hold : ∃ s t u v : State, exec .iirUpdate s = .next t ∧ u.xy = t.xy ∧
    u.iir.ymin = s.iir.ymin ∧ u.iir.ymax = s.iir.ymax ∧ exec .iirUpdateHold u = .next v :=
  ⟨{ State.reset with iir := cfgA }, _, outcome (exec .iirUpdate { State.reset with iir := cfgA }), _,
    exec_outcome _ _, rfl, rfl, rfl, exec_outcome _ _⟩

/-- V-PI-1 completes, V-PI-3 is degenerate. -/
theorem witness_SetPi :
    (piCoeffs 0x3F800000 0x3F000000 0).degenerate = false ∧
      (piCoeffs 0x3F800000 0 0x3F800000).degenerate = true := by decide +kernel

theorem witness_SmallGain : ∃ s t : State, small s.arg2 = true ∧ exec .iirSetpi s = .next t ∧
    t.status.err = .ok :=
  ⟨args 0x3F800000 0x3F000000 0x33FFFFFF State.reset, _, by decide +kernel, exec_outcome _ _,
    by decide +kernel⟩

theorem witness_ZeroIntegralGain :
    isZero 0x80000000 = true ∧ isFin 0x7F7FFFFF = true ∧ isNaN 0x7F800000 = false := by decide

theorem witness_SetXoff : isZero (fadd (fadd 0x3F800000 0xBF800000) 0) = true ∧ isFin 0x40400000 = true := by
  decide +kernel

/-- A gain at the limit, one below it, and a NaN gain. -/
theorem witness_GetXoff :
    fadd (fadd 0x34000000 0) 0 = 0x34000000 ∧ small (fadd (fadd 0x33FFFFFF 0) 0) = true ∧
      isNaN (fadd (fadd 0x7F800000 0xFF800000) 0) = true := by decide +kernel

theorem witness_GetK : ∃ s t : State, exec .iirGetk s = .next t ∧ s.iir.ba0 = 0x80000000 ∧
    s.iir.ba1 = 0x80000000 ∧ s.iir.ba2 = 0x80000000 :=
  ⟨{ State.reset with iir := ⟨0x80000000, 0x80000000, 0x80000000, 0, 0, 0, 0, 0⟩ }, _,
    exec_outcome _ _, rfl, rfl, rfl⟩

theorem witness_GetK_infinities : ∃ s t : State, exec .iirGetk s = .next t ∧ s.iir.ba0 = 0x7F800000 ∧
    s.iir.ba1 = 0xFF800000 :=
  ⟨{ State.reset with iir := ⟨0x7F800000, 0xFF800000, 0, 0, 0, 0, 0, 0⟩ }, _, exec_outcome _ _, rfl, rfl⟩

theorem witness_GetK_example : ∃ s t : State, exec .iirGetk s = .next t ∧ s.iir.ba0 = 0x3FC00000 ∧
    s.iir.ba1 = 0xBF000000 ∧ s.iir.ba2 = 0 :=
  ⟨{ State.reset with iir := ⟨0x3FC00000, 0xBF000000, 0, 0, 0, 0, 0, 0⟩ }, _, exec_outcome _ _, rfl, rfl, rfl⟩

theorem witness_IirFrame : ∃ s t : State, exec .iirGetxoff s = .next t := ⟨State.reset, _, exec_outcome _ _⟩

/-- Both sides of the wrap at the edge, for the least and the greatest shift. -/
theorem witness_Rshr :
    (0x7FFFFFFE#32).toInt < 2 ^ 31 - 2 ^ (1 - 1) ∧ 2 ^ 31 - 2 ^ (1 - 1) ≤ (0x7FFFFFFF#32).toInt ∧
      2 ^ 31 - 2 ^ (30 - 1) ≤ (0x60000000#32).toInt := by decide

theorem witness_PllsUpdate : ∃ s t : State, s.plls = ⟨0, 0, 0, 0, 0⟩ ∧ s.arg0 = 0x00010000 ∧
    exec (.pllsUpdate 8 4) s = .next t :=
  ⟨args 0x00010000 0 0 State.reset, _, rfl, rfl, exec_outcome _ _⟩

/-- Each edge of the legal range from outside, and the range is not empty. -/
theorem witness_IllegalShift :
    (∀ q ∈ [(0, 1), (31, 1), (1, 0), (1, 31)], ¬ (1 ≤ q.1 ∧ q.1 ≤ 30 ∧ 1 ≤ q.2 ∧ q.2 ≤ 30)) ∧
      shiftsLegal 1 30 = true ∧ shiftsLegal 30 1 = true := by decide

theorem witness_MissingSample : ∃ s : State, s.arg0 = s.plls.x + s.plls.f ∧ s.plls.f ≠ 0 :=
  ⟨{ State.reset with arg0 := 0x10100, plls := ⟨0x10000, 0x100, 0x1078, 0, 0⟩ }, by decide, by decide⟩

/-- The offset at both ends of the range, for sp = 4. -/
theorem witness_StaticOffset : ∃ s u : State,
    (s.arg0 = s.plls.x + s.plls.f ∧ (s.plls.x - s.plls.y).toInt = -(2 ^ (4 - 1))) ∧
    (u.arg0 = u.plls.x + u.plls.f ∧ (u.plls.x - u.plls.y).toInt = 2 ^ (4 - 1) - 1) :=
  ⟨{ State.reset with arg0 := 0x100, plls := ⟨0, 0x100, 8, 0, 0⟩ },
    { State.reset with arg0 := 0x107, plls := ⟨7, 0x100, 0, 0, 0⟩ }, by decide, by decide⟩

theorem witness_ZeroInput :
    (∀ q ∈ [(1, 30), (30, 1)], shiftsLegal q.1 q.2 = true) ∧ State.reset.plls.x = 0 ∧ State.reset.arg0 = 0 := by
  decide

theorem witness_CossinPllsFrame : ∃ s t u v w : State, exec .cossin s = .next t ∧ exec .pllsRead s = .next u ∧
    exec (.pllsUpdate 1 30) s = .next v ∧ exec (.pllsUpdateMiss 30 1) s = .next w :=
  ⟨State.reset, _, _, _, _, exec_outcome _ _, exec_outcome _ _, exec_outcome _ _, exec_outcome _ _⟩

theorem witness_PllgFrame : ∃ s t u v : State, exec .pllgUpdate s = .next t ∧
    exec .pllgUpdateMiss s = .next u ∧ exec .pllgRead s = .next v :=
  ⟨State.reset, _, _, _, exec_outcome _ _, exec_outcome _ _, exec_outcome _ _⟩

theorem witness_Units : Instr.iirSetpi ∈ [Instr.iirUpdate, .iirUpdateHold, .iirSetpi, .iirSetxoff, .iirGetxoff,
    .iirGetk] ∧ Instr.pllsRead ∈ [Instr.pllsUpdate 1 1, .pllsUpdateMiss 1 1, .pllsRead] ∧
    Instr.pllgUpdateMiss ∈ [Instr.pllgUpdate, .pllgUpdateMiss, .pllgRead] := by decide

theorem witness_EndsWithCode : badShift (.pllsUpdate 0 31) = true ∧ badShift (.pllsUpdateMiss 1 30) = false := by
  decide

theorem witness_IllegalWord : ∃ (s : State) (w : Word) (d : DecodeReject) (es : List HostEvent),
    s.host.script = .write 0x00C .word w :: es ∧ s.host.resetIn = false ∧ decode w = .reject d :=
  ⟨setScript [.write 0x00C .word 0xFF] State.reset, 0xFF, .reservedOpcode, [], rfl, rfl, by decide⟩

/-- R209's own case, SF = 0, with a reserved bit of each of the three groups. -/
theorem witness_DecodeErrorsFirst : ∃ (s t : State),
    s.host.script = .write 0x00C .word 0x00002020 :: [] ∧ s.host.resetIn = false ∧
    opField 0x00002020 = 0x20 ∧ step s = .next t ∧
    (0x00002020#32).toNat / 2 ^ 13 % 2 ^ 3 ≠ 0 ∧ (0x00800020#32).toNat / 2 ^ 21 % 2 ^ 3 ≠ 0 ∧
    (0x02000020#32).toNat / 2 ^ 25 ≠ 0 :=
  ⟨setScript [.write 0x00C .word 0x00002020] State.reset, _, rfl, rfl, by decide, rfl, by decide, by decide,
    by decide⟩

theorem witness_PerSample : Instr.pllgUpdate ∈ [Instr.cossin, .iirUpdate, .iirUpdateHold, .pllgUpdate,
    .pllgUpdateMiss, .pllsRead, .pllgRead] ∧ shiftsLegal 30 30 = true := by decide

/-- Both sticky bits set, and a command that ends well. -/
theorem witness_Sticky : ∃ s t : State, s.status.fault = true ∧ s.status.busErr = true ∧ step s = .next t ∧
    s.host.script ≠ [] ∧ ∀ e, s.host.script.head? = some e → isResetEvent e = false :=
  ⟨setScript [.write 0x00C .word 0x21] { State.reset with status := ⟨.illegalCmd, true, true⟩ }, _, rfl, rfl,
    rfl, by simp, by simp [isResetEvent]⟩

/-- RESET driven high, and released. -/
theorem witness_ResetEvents : ∃ s u : State,
    s.host.script = .reset true :: [] ∧ (u.host.script = .reset false :: [] ∧ u.host.resetIn = true) :=
  ⟨setScript [.reset true] State.reset, setHost ⟨[.reset false], none, true, 0⟩ State.reset, rfl, rfl, rfl⟩

theorem witness_ResetFilter : ∃ s t : State, s.iir = State.reset.iir ∧ s.xy = State.reset.xy ∧
    exec .iirUpdate s = .next t ∧ isFin s.arg0 = true :=
  ⟨args 0x7F7FFFFF 0 0 State.reset, _, rfl, rfl, exec_outcome _ _, by decide⟩

theorem witness_ResetFilter_infinite : ∃ s t : State, s.iir = State.reset.iir ∧ s.xy = State.reset.xy ∧
    exec .iirUpdate s = .next t ∧ isFin s.arg0 = false :=
  ⟨args 0x7F800000 0 0 State.reset, _, rfl, rfl, exec_outcome _ _, by decide⟩

/-- A state with a fault and a bus error on record satisfies the invariant and can step. -/
theorem witness_Bookkeeping : ∃ s t : State, Bookkeeping s ∧ s.status.fault = true ∧ s.status.busErr = true ∧
    step s = .next t := by
  refine ⟨setScript [.write 0x00C .word 1] { State.reset with
    status := ⟨.illegalCmd, true, true⟩, cmd := 0xFF, fcmd := 0xFF, beaddr := ⟨0x012, false, 2⟩ },
    _, ?_, rfl, rfl, rfl⟩
  constructor <;> first | decide | (intro h; cases h)

theorem witness_GoodScripts : ∃ s : State, Clean s ∧ s.host.resetIn = false ∧ s.host.script ≠ [] ∧
    ∀ e ∈ s.host.script, goodEvent e = true :=
  ⟨setScript [.write 0x010 .word 7, .write 0x00C .word 0x01010120, .read 0x020 .word] State.reset,
    ⟨rfl, rfl⟩, rfl, by simp, by decide⟩

end Sys2Proof.Tests
end

section
/-! SUPPORT. The branches of the commands that can end with an error, one equation per branch. -/

namespace Sys2Proof.Machine

/-- A degenerate PI synthesis raises PI_DEGENERATE and leaves the taps (60_exceptions.md R205). -/
theorem execIirSetpi_degenerate {s : State} (h : (piCoeffs s.arg0 s.arg1 s.arg2).degenerate = true) :
    execIirSetpi s = .next (raiseStatusError .piDegenerate s) := by
  simp [execIirSetpi, h]

/-- Any other PI synthesis writes its taps (41_biquad_iir.md R144). -/
theorem execIirSetpi_regular {s : State} (h : (piCoeffs s.arg0 s.arg1 s.arg2).degenerate = false) :
    execIirSetpi s =
      .next (complete (setIir (withPi (piCoeffs s.arg0 s.arg1 s.arg2) s.iir) s)) := by
  simp [execIirSetpi, h]

/-- A small gain raises XOFF_UNDEFINED and leaves RES0 (60_exceptions.md R206). -/
theorem execIirGetxoff_small {s : State} (h : small (dcGain s.iir) = true) :
    execIirGetxoff s = .next (raiseStatusError .xoffUndefined s) := by
  simp [execIirGetxoff, h]

/-- Any other gain divides the output offset (41_biquad_iir.md R149). -/
theorem execIirGetxoff_notSmall {s : State} (h : small (dcGain s.iir) = false) :
    execIirGetxoff s = .next (complete (setRes0 (fdiv s.iir.yoff (dcGain s.iir)) s)) := by
  simp [execIirGetxoff, h]

/-- Legal shifts advance the loop and return its estimates (42_pll_shift.md R167). -/
theorem pllsUpdate_legal {sf sp : Nat} (h : shiftsLegal sf sp = true) (sample : Option Word) (s : State) :
    pllsUpdate sample sf sp s =
      complete (setRes01 (pllsAdvance sample sf sp s.plls).ph (pllsAdvance sample sf sp s.plls).fr
        (setPlls (pllsAdvance sample sf sp s.plls) s)) := by
  simp [pllsUpdate, h]

/-- An illegal shift raises SHIFT_RANGE (60_exceptions.md R208). -/
theorem pllsUpdate_illegal {sf sp : Nat} (h : shiftsLegal sf sp = false) (sample : Option Word) (s : State) :
    pllsUpdate sample sf sp s = raiseFault .shiftRange s := by
  simp [pllsUpdate, h]

end Sys2Proof.Machine
end

section
/-! SUPPORT. Noninterference between the units (00_scope.md R3): each command commutes with replacing the
registers of the units it does not belong to. A command without a branch reads no replaced register, so the
two sides unfold to the same record; a command with a branch decides it the same way on both sides. -/

namespace Sys2Proof.Machine

/-- COSSIN has no registers of its own and commutes with replacing those of every unit. -/
theorem exec_cossin_otherUnits (s : State) (c : IirCfg) (v : IirXy) (p : Plls) (g : Pllg) :
    exec .cossin (setIir c (setXy v (setPlls p (setPllg g s)))) =
      mapNext (fun t => setIir c (setXy v (setPlls p (setPllg g t)))) (exec .cossin s) :=
  rfl

/-- IIR_SET_PI decides degeneracy from the operands alone. -/
theorem execIirSetpi_otherUnits (s : State) (p : Plls) (g : Pllg) :
    execIirSetpi (setPlls p (setPllg g s)) =
      mapNext (fun t => setPlls p (setPllg g t)) (execIirSetpi s) := by
  cases h : (piCoeffs s.arg0 s.arg1 s.arg2).degenerate with
  | true =>
    rw [execIirSetpi_degenerate h, execIirSetpi_degenerate (s := setPlls p (setPllg g s)) h]
    rfl
  | false =>
    rw [execIirSetpi_regular h, execIirSetpi_regular (s := setPlls p (setPllg g s)) h]
    rfl

/-- IIR_GET_XOFF decides whether the offset is defined from the IIR configuration alone. -/
theorem execIirGetxoff_otherUnits (s : State) (p : Plls) (g : Pllg) :
    execIirGetxoff (setPlls p (setPllg g s)) =
      mapNext (fun t => setPlls p (setPllg g t)) (execIirGetxoff s) := by
  cases h : small (dcGain s.iir) with
  | true =>
    rw [execIirGetxoff_small h, execIirGetxoff_small (s := setPlls p (setPllg g s)) h]
    rfl
  | false =>
    rw [execIirGetxoff_notSmall h, execIirGetxoff_notSmall (s := setPlls p (setPllg g s)) h]
    rfl

/-- Every IIR command commutes with replacing the registers of both PLLs. -/
theorem exec_iir_otherUnits {i : Instr} (s : State) (p : Plls) (g : Pllg)
    (hi : i ∈ [Instr.iirUpdate, .iirUpdateHold, .iirSetpi, .iirSetxoff, .iirGetxoff, .iirGetk]) :
    exec i (setPlls p (setPllg g s)) = mapNext (fun t => setPlls p (setPllg g t)) (exec i s) := by
  simp only [List.mem_cons, List.not_mem_nil, or_false] at hi
  obtain rfl | rfl | rfl | rfl | rfl | rfl := hi
  · rfl
  · rfl
  · exact execIirSetpi_otherUnits s p g
  · rfl
  · exact execIirGetxoff_otherUnits s p g
  · rfl

/-- A PLLS update, legal or faulting, commutes with replacing the IIR and PLLG registers. -/
theorem pllsUpdate_otherUnits (sample : Option Word) (sf sp : Nat) (s : State) (c : IirCfg) (v : IirXy)
    (g : Pllg) : pllsUpdate sample sf sp (setIir c (setXy v (setPllg g s))) =
      setIir c (setXy v (setPllg g (pllsUpdate sample sf sp s))) := by
  cases h : shiftsLegal sf sp with
  | true => rw [pllsUpdate_legal h, pllsUpdate_legal h]; rfl
  | false => rw [pllsUpdate_illegal h, pllsUpdate_illegal h]; rfl

/-- Every PLLS command commutes with replacing the IIR and PLLG registers. -/
theorem exec_plls_otherUnits {i : Instr} {sf sp : Nat} (s : State) (c : IirCfg) (v : IirXy) (g : Pllg)
    (hi : i ∈ [Instr.pllsUpdate sf sp, .pllsUpdateMiss sf sp, .pllsRead]) :
    exec i (setIir c (setXy v (setPllg g s))) =
      mapNext (fun t => setIir c (setXy v (setPllg g t))) (exec i s) := by
  simp only [List.mem_cons, List.not_mem_nil, or_false] at hi
  obtain rfl | rfl | rfl := hi
  · exact congrArg Host.Outcome.next (pllsUpdate_otherUnits (some s.arg0) sf sp s c v g)
  · exact congrArg Host.Outcome.next (pllsUpdate_otherUnits none sf sp s c v g)
  · rfl

/-- Every PLLG command commutes with replacing the IIR and PLLS registers. -/
theorem exec_pllg_otherUnits {i : Instr} (s : State) (c : IirCfg) (v : IirXy) (p : Plls)
    (hi : i ∈ [Instr.pllgUpdate, .pllgUpdateMiss, .pllgRead]) :
    exec i (setIir c (setXy v (setPlls p s))) =
      mapNext (fun t => setIir c (setXy v (setPlls p t))) (exec i s) := by
  simp only [List.mem_cons, List.not_mem_nil, or_false] at hi
  obtain rfl | rfl | rfl := hi <;> rfl

/-- Settles O50, unit by unit: each command commutes with replacing the other units' registers. -/
theorem unitsAreIndependent : Obligations.UnitsAreIndependent :=
  ⟨exec_cossin_otherUnits,
    fun _ s p g hi => exec_iir_otherUnits s p g hi,
    fun _ _ _ s c v g hi => exec_plls_otherUnits s c v g hi,
    fun _ s c v p hi => exec_pllg_otherUnits s c v p hi⟩

end Sys2Proof.Machine
end

section
/-! SUPPORT. How a command ends, as the error registers see it, and what a bus error records. -/

namespace Sys2Proof.Machine

/-- A command that raised no fault went from s to t: ERR holds the code, and the sticky bits, their
records, CMD and the host's side are as before (60_exceptions.md R200, R204). -/
structure EndsWith (e : ErrCode) (s t : State) : Prop where
  status : t.status = { s.status with err := e }
  cmd : t.cmd = s.cmd
  fcmd : t.fcmd = s.fcmd
  beaddr : t.beaddr = s.beaddr
  host : t.host = s.host

/-- A PLLS update faults exactly on an illegal shift, and else completes (42_pll_shift.md R161, R167). -/
theorem pllsUpdate_cases (sample : Option Word) (sf sp : Nat) (s : State) :
    ((!shiftsLegal sf sp) = true ∧ pllsUpdate sample sf sp s = raiseFault .shiftRange s) ∨
    ((!shiftsLegal sf sp) = false ∧ EndsWith .ok s (pllsUpdate sample sf sp s)) := by
  cases h : shiftsLegal sf sp with
  | true => exact .inr ⟨rfl, by rw [pllsUpdate_legal h]; constructor <;> rfl⟩
  | false => exact .inl ⟨rfl, pllsUpdate_illegal h sample s⟩

/-- How a command that answers a next state ended: with SHIFT_RANGE, which only an illegal shift raises,
with OK, or with the status error of its own (60_exceptions.md R200, R208). -/
theorem exec_cases {i : Instr} {s t : State} (h : exec i s = .next t) :
    (badShift i = true ∧ t = raiseFault .shiftRange s) ∨
    (badShift i = false ∧ EndsWith .ok s t) ∨
    (i = .iirSetpi ∧ EndsWith .piDegenerate s t) ∨
    (i = .iirGetxoff ∧ EndsWith .xoffUndefined s t) := by
  cases i with
  | pllsUpdate sf sp =>
    obtain rfl := Host.Outcome.next.inj h
    exact (pllsUpdate_cases (some s.arg0) sf sp s).imp_right .inl
  | pllsUpdateMiss sf sp =>
    obtain rfl := Host.Outcome.next.inj h
    exact (pllsUpdate_cases none sf sp s).imp_right .inl
  | iirSetpi =>
    cases hd : (piCoeffs s.arg0 s.arg1 s.arg2).degenerate with
    | true =>
      obtain rfl := Host.Outcome.next.inj ((execIirSetpi_degenerate hd).symm.trans h)
      exact .inr (.inr (.inl ⟨rfl, rfl, rfl, rfl, rfl, rfl⟩))
    | false =>
      obtain rfl := Host.Outcome.next.inj ((execIirSetpi_regular hd).symm.trans h)
      exact .inr (.inl ⟨rfl, rfl, rfl, rfl, rfl, rfl⟩)
  | iirGetxoff =>
    cases hk : small (dcGain s.iir) with
    | true =>
      obtain rfl := Host.Outcome.next.inj ((execIirGetxoff_small hk).symm.trans h)
      exact .inr (.inr (.inr ⟨rfl, rfl, rfl, rfl, rfl, rfl⟩))
    | false =>
      obtain rfl := Host.Outcome.next.inj ((execIirGetxoff_notSmall hk).symm.trans h)
      exact .inr (.inl ⟨rfl, rfl, rfl, rfl, rfl, rfl⟩)
  | _ =>
    obtain rfl := Host.Outcome.next.inj h
    exact .inr (.inl ⟨rfl, rfl, rfl, rfl, rfl, rfl⟩)

/-- A word that decodes faults exactly on an illegal shift (60_exceptions.md R200, R208). -/
theorem faultingWord_ok {w : Word} {i : Instr} (h : decode w = .ok i) : faultingWord w = badShift i := by
  simp [faultingWord, h]

/-- A word that does not decode faults (60_exceptions.md R202). -/
theorem faultingWord_reject {w : Word} {d : DecodeReject} (h : decode w = .reject d) :
    faultingWord w = true := by
  simp [faultingWord, h]

/-- BEADDR takes the access of the first bus error and keeps it (60_exceptions.md R207). -/
@[simp] theorem busError_beaddr (off : BitVec 12) (wr : Bool) (size : AccessSize) (s : State) :
    (busError off wr size s).beaddr =
      if s.status.busErr then s.beaddr else busErrorRecord off wr size s.host.freeIdx := by
  cases hb : s.status.busErr <;> simp [busError, hb]

@[simp] theorem busError_resetIn (off : BitVec 12) (wr : Bool) (size : AccessSize) (s : State) :
    (busError off wr size s).host.resetIn = s.host.resetIn :=
  (busError_host off wr size s).2.2

/-- The SIZE code 2 stands for a word access alone: the free codes are 3–7 (10_state.md R39). -/
theorem sizeCode_ne_two {size : AccessSize} (h : size ≠ .word) (n : Nat) : sizeCode size n ≠ 2#3 := by
  have free_code : ∀ k : Fin 5, BitVec.ofNat 3 (3 + k.val) ≠ 2#3 := by decide
  cases size with
  | byte => simp [sizeCode]
  | half => simp [sizeCode]
  | word => exact absurd rfl h
  | other => exact free_code (Config.freeSizeIndex n)

/-- An access that reaches no register for reading is a bus error, whatever its direction
(20_memory.md R86). -/
theorem recordsBusError_of_readTarget {off : BitVec 12} {size : AccessSize}
    (h : readTarget off size = none) (wr : Bool) (n : Nat) :
    recordsBusError (busErrorRecord off wr size n) = true := by
  by_cases hw : size = .word
  · have hoff : regAt off = none := by
      refine Option.eq_none_iff_forall_ne_some.mpr fun r hr => ?_
      simp [readTarget_eq_some.mpr ⟨hw, regOffset_of_regAt hr⟩] at h
    simp [recordsBusError, busErrorRecord, hoff]
  · simp [recordsBusError, busErrorRecord, sizeCode_ne_two hw]

/-- A write that reaches no register it may write is a bus error (20_memory.md R86). -/
theorem recordsBusError_of_writeTarget {off : BitVec 12} {size : AccessSize}
    (h : writeTarget off size = none) (n : Nat) :
    recordsBusError (busErrorRecord off true size n) = true := by
  cases hr : readTarget off size with
  | none => exact recordsBusError_of_readTarget hr true n
  | some r =>
    have hro : regRight r = .ro := by simpa [writeTarget, hr, Option.filter] using h
    obtain ⟨-, rfl⟩ := readTarget_eq_some.mp hr
    simp [recordsBusError, busErrorRecord, hro]

end Sys2Proof.Machine
end

section
/-! SUPPORT. The bookkeeping invariant, operation by operation: with RESET released only the error
registers and CMD count; driven, RESET puts them all back. -/

namespace Sys2Proof.Machine

/-- The invariant reads the error registers, CMD and, under RESET, the registers' values. -/
theorem Bookkeeping.congr {s t : State} (hs : Bookkeeping s) (hstatus : t.status = s.status)
    (hcmd : t.cmd = s.cmd) (hfcmd : t.fcmd = s.fcmd) (hbeaddr : t.beaddr = s.beaddr)
    (hreset : t.host.resetIn = true → ∀ r, readReg r t = readReg r State.reset) : Bookkeeping t where
  noFaultWord := by simpa only [hstatus, hfcmd] using hs.noFaultWord
  faultWord := by simpa only [hstatus, hfcmd] using hs.faultWord
  noBusError := by simpa only [hstatus, hbeaddr] using hs.noBusError
  busError := by simpa only [hstatus, hbeaddr] using hs.busError
  errOfCmd := by simpa only [hstatus, hcmd] using hs.errOfCmd
  faultSticks := by simpa only [hstatus] using hs.faultSticks
  heldInReset := hreset

theorem Bookkeeping.setScript {s : State} (hs : Bookkeeping s) (es : List HostEvent) :
    Bookkeeping (setScript es s) :=
  hs.congr rfl rfl rfl rfl fun h r => (readReg_setScript r es s).trans (hs.heldInReset h r)

theorem Bookkeeping.setRdata {s : State} (hs : Bookkeeping s) (d : Option Word) :
    Bookkeeping (setRdata d s) :=
  hs.congr rfl rfl rfl rfl fun h r => (readReg_setRdata r d s).trans (hs.heldInReset h r)

/-- RESET driven high, or released, establishes the invariant from any state; low to low keeps it. -/
theorem Bookkeeping.driveReset {s : State} (hs : Bookkeeping s) (level : Bool) :
    Bookkeeping (driveReset level s) := by
  by_cases hc : level = true ∨ s.host.resetIn = true
  · have hreg := readReg_driveReset hc
    have hstatus : (Machine.driveReset level s).status = ⟨.ok, false, false⟩ :=
      statusWord_injective (hreg .status)
    have hcmd : (Machine.driveReset level s).cmd = 0 := hreg .cmd
    have hbeaddr : (Machine.driveReset level s).beaddr = ⟨0, false, 0⟩ := by
      simp [Machine.driveReset, hc, State.reset]
    constructor
    case noFaultWord => exact fun _ => hreg .fcmd
    case noBusError => exact fun _ => hbeaddr
    case heldInReset => exact fun _ => hreg
    all_goals simp [hstatus, hcmd, errFits]
  · have hlow : Machine.driveReset level s = s := by simp_all [Machine.driveReset]
    rwa [hlow]

/-- A bus error keeps the invariant if the access it records is one. -/
theorem Bookkeeping.busError_released {s : State} (hs : Bookkeeping s) (hr : s.host.resetIn = false)
    {off : BitVec 12} {wr : Bool} {size : AccessSize}
    (hrec : ∀ n, recordsBusError (busErrorRecord off wr size n) = true) :
    Bookkeeping (Machine.busError off wr size s) where
  noFaultWord := by simpa using hs.noFaultWord
  faultWord := by simpa using hs.faultWord
  noBusError := by simp
  busError _ := by
    rw [busError_beaddr]
    split
    · exact hs.busError ‹_›
    · exact hrec _
  errOfCmd := by simpa using hs.errOfCmd
  faultSticks := by simpa using hs.faultSticks
  heldInReset := by simp [hr]

/-- A fault of the word just written to CMD keeps the invariant: it is recorded if it is the first. -/
theorem Bookkeeping.raiseFault {s : State} (hs : Bookkeeping s) (hr : s.host.resetIn = false)
    {w : Word} {e : ErrCode} (hw : faultingWord w = true) (he : errFits e w = true) :
    Bookkeeping (raiseFault e { s with cmd := w }) where
  noFaultWord := by simp
  faultWord _ := by
    rw [raiseFault_fcmd]
    split
    · exact hs.faultWord ‹_›
    · exact hw
  noBusError := hs.noBusError
  busError := hs.busError
  errOfCmd := he
  faultSticks _ := rfl
  heldInReset := by simp [hr]

/-- A command word that ends without a fault keeps the invariant if its code fits the word. -/
theorem Bookkeeping.endsWith {s t : State} (hs : Bookkeeping s) (hr : s.host.resetIn = false)
    {w : Word} {e : ErrCode} (ht : EndsWith e { s with cmd := w } t) (he : errFits e w = true)
    (hne : e ≠ .illegalCmd ∧ e ≠ .shiftRange) : Bookkeeping t where
  noFaultWord := by simpa only [ht.status, ht.fcmd] using hs.noFaultWord
  faultWord := by simpa only [ht.status, ht.fcmd] using hs.faultWord
  noBusError := by simpa only [ht.status, ht.beaddr] using hs.noBusError
  busError := by simpa only [ht.status, ht.beaddr] using hs.busError
  errOfCmd := by simpa only [ht.status, ht.cmd] using he
  faultSticks := by simp [ht.status, hne]
  heldInReset := by simp [ht.host, hr]

/-- A command word that decodes keeps the invariant, however its command ends. -/
theorem Bookkeeping.exec {s t : State} (hs : Bookkeeping s) (hr : s.host.resetIn = false) {w : Word}
    {i : Instr} (hd : decode w = .ok i) (h : Machine.exec i { s with cmd := w } = .next t) :
    Bookkeeping t := by
  obtain ⟨hbad, rfl⟩ | ⟨hgood, ht⟩ | ⟨rfl, ht⟩ | ⟨rfl, ht⟩ := exec_cases h
  · exact hs.raiseFault hr ((faultingWord_ok hd).trans hbad)
      (by simp [errFits, hd, Decoded.instr?, hbad])
  · exact hs.endsWith hr ht (by simp [errFits, faultingWord_ok hd, hgood]) (by decide)
  · exact hs.endsWith hr ht (by simp [errFits, hd]) (by decide)
  · exact hs.endsWith hr ht (by simp [errFits, hd]) (by decide)

theorem Bookkeeping.busRead {s : State} (hs : Bookkeeping s) (hr : s.host.resetIn = false)
    (off : BitVec 12) (size : AccessSize) : Bookkeeping (busRead off size s) := by
  cases ht : readTarget off size with
  | some r => rw [busRead_admitted ht]; exact hs.setRdata _
  | none =>
    rw [busRead_error ht]
    exact (hs.busError_released hr (recordsBusError_of_readTarget ht false)).setRdata _

theorem Bookkeeping.busWrite {s t : State} (hs : Bookkeeping s) (hr : s.host.resetIn = false)
    {off : BitVec 12} {size : AccessSize} {w : Word} (h : busWrite off size w s = .next t) :
    Bookkeeping t := by
  have hs' := hs.setRdata none
  obtain ⟨i, -, hd, hx⟩ | ⟨d, -, hd, rfl⟩ | ⟨r, -, hne, rfl⟩ | ⟨ht, rfl⟩ := busWrite_cases h
  · exact hs'.exec hr hd hx
  · exact hs'.raiseFault hr (faultingWord_reject hd) (by simp [errFits, hd, Decoded.instr?])
  · exact hs'.congr (by simp) (writeReg_cmd hne w _) (by simp) (by simp) (by simp [hr])
  · exact hs'.busError_released hr (recordsBusError_of_writeTarget ht)

/-- Settles O58, by the event the step serves. -/
theorem bookkeepingIsKeptByEveryStep : Obligations.BookkeepingIsKeptByEveryStep := by
  intro s t hs h
  obtain ⟨-, rfl⟩ | ⟨level, es, -, rfl⟩ | ⟨off, size, es, -, hr, rfl⟩ | ⟨off, size, w, es, -, hr, h⟩ :=
    step_cases h
  · exact hs
  · exact (hs.setScript es).driveReset level
  · exact (hs.setScript es).busRead hr off size
  · exact (hs.setScript es).busWrite hr h

end Sys2Proof.Machine
end

section
/-! SUPPORT. The sticky bits and their records, operation by operation. -/

namespace Sys2Proof.Machine

/-- A sticky bit that is set in s is set in t beside the same record (10_state.md R38, R39). -/
def KeepsSticky (s t : State) : Prop :=
  (s.status.fault = true → t.status.fault = true ∧ t.fcmd = s.fcmd) ∧
    (s.status.busErr = true → t.status.busErr = true ∧ t.beaddr = s.beaddr)

/-- What leaves STATUS, FCMD and BEADDR keeps the sticky bits. -/
theorem keepsSticky_of_eq {s t : State} (hstatus : t.status = s.status) (hfcmd : t.fcmd = s.fcmd)
    (hbeaddr : t.beaddr = s.beaddr) : KeepsSticky s t :=
  ⟨fun h => ⟨hstatus ▸ h, hfcmd⟩, fun h => ⟨hstatus ▸ h, hbeaddr⟩⟩

theorem keepsSticky_busError (off : BitVec 12) (wr : Bool) (size : AccessSize) (s : State) :
    KeepsSticky s (busError off wr size s) :=
  ⟨fun h => by simp [h], fun h => by simp [h]⟩

theorem keepsSticky_raiseFault (e : ErrCode) (s : State) : KeepsSticky s (raiseFault e s) :=
  ⟨fun h => by simp [h], fun h => by simp [h]⟩

theorem EndsWith.keepsSticky {e : ErrCode} {s t : State} (ht : EndsWith e s t) : KeepsSticky s t :=
  ⟨fun h => ⟨by rw [ht.status]; exact h, ht.fcmd⟩, fun h => ⟨by rw [ht.status]; exact h, ht.beaddr⟩⟩

/-- No command clears a sticky bit or changes a record it guards (60_exceptions.md R203). -/
theorem keepsSticky_exec {i : Instr} {s t : State} (h : exec i s = .next t) : KeepsSticky s t := by
  obtain ⟨-, rfl⟩ | ⟨-, ht⟩ | ⟨-, ht⟩ | ⟨-, ht⟩ := exec_cases h
  · exact keepsSticky_raiseFault .shiftRange s
  all_goals exact ht.keepsSticky

theorem keepsSticky_busRead (off : BitVec 12) (size : AccessSize) (s : State) :
    KeepsSticky s (busRead off size s) := by
  cases ht : readTarget off size with
  | some r => rw [busRead_admitted ht]; exact keepsSticky_of_eq rfl rfl rfl
  | none => rw [busRead_error ht]; exact keepsSticky_busError off false size s

theorem keepsSticky_busWrite {off : BitVec 12} {size : AccessSize} {w : Word} {s t : State}
    (h : busWrite off size w s = .next t) : KeepsSticky s t := by
  obtain ⟨i, -, -, hx⟩ | ⟨d, -, -, rfl⟩ | ⟨r, -, -, rfl⟩ | ⟨-, rfl⟩ := busWrite_cases h
  · exact keepsSticky_exec (s := { setRdata none s with cmd := w }) hx
  · exact keepsSticky_raiseFault .illegalCmd { setRdata none s with cmd := w }
  · exact keepsSticky_of_eq (by simp) (by simp) (by simp)
  · exact keepsSticky_busError off true size (setRdata none s)

/-- Settles O55, by the event the step serves. -/
theorem stickyBitsWaitForReset : Obligations.StickyBitsWaitForReset := by
  intro s t h hev
  obtain ⟨-, rfl⟩ | ⟨level, es, hes, -⟩ | ⟨off, size, es, -, -, rfl⟩ | ⟨off, size, w, es, -, -, h⟩ :=
    step_cases h
  · exact keepsSticky_of_eq rfl rfl rfl
  · exact absurd (hev (.reset level) (by simp [hes])) (by simp [isResetEvent])
  · exact keepsSticky_busRead off size (setScript es s)
  · exact keepsSticky_busWrite (s := setScript es s) h

end Sys2Proof.Machine
end

section
/-! SUPPORT. The register map against the ranges it leaves reserved (10_state.md R32). -/

namespace Sys2Proof.Machine

/-- The two low bits of an offset are its remainder by 4. -/
theorem lowBits_eq_zero_iff (off : BitVec 12) : off.extractLsb' 0 2 = 0 ↔ off.toNat % 4 = 0 := by
  simp [BitVec.toNat_eq, BitVec.extractLsb'_toNat]

/-- No register lies in a reserved range. -/
theorem reservedOffset_regOffset (r : Reg) : reservedOffset (regOffset r).toNat = false := by
  cases r <;> decide

/-- Every aligned offset past the last register is reserved. -/
theorem reservedOffset_of_past {n : Nat} (h : 0x0BC ≤ n) (h' : n ≤ 0xFFC) : reservedOffset n = true := by
  simp [reservedOffset, h, h']

/-- Up to the last register, the aligned offsets without a register are the reserved ones. -/
theorem reservedOffset_of_low :
    ∀ k < 0x02F, regAt (BitVec.ofNat 12 (4 * k)) = none → reservedOffset (4 * k) = true := by
  decide

/-- An aligned offset of no register is reserved. -/
theorem reservedOffset_of_regAt {off : BitVec 12} (ha : off.toNat % 4 = 0) (h : regAt off = none) :
    reservedOffset off.toNat = true := by
  have hlt := off.isLt
  by_cases hp : 0x0BC ≤ off.toNat
  · exact reservedOffset_of_past hp (by omega)
  · have hk : 4 * (off.toNat / 4) = off.toNat := by omega
    have low := reservedOffset_of_low (off.toNat / 4) (by omega)
    rw [hk, BitVec.ofNat_toNat, BitVec.setWidth_eq] at low
    exact low h

/-- Settles O14: a register's offset is neither misaligned nor reserved, and every other one is. -/
theorem registerMapLeavesTheReservedRanges : Obligations.RegisterMapLeavesTheReservedRanges := by
  refine ⟨fun r => ⟨(lowBits_eq_zero_iff _).mp (regOffset_aligned r), regAt_regOffset r⟩,
    fun off => ⟨fun h => ?_, ?_⟩⟩
  · by_cases ha : off.toNat % 4 = 0
    · exact .inr (reservedOffset_of_regAt ha h)
    · exact .inl ha
  · rintro (ha | hres)
    · exact regAt_misaligned (mt (lowBits_eq_zero_iff off).mp ha)
    · refine Option.eq_none_iff_forall_ne_some.mpr fun r hr => ?_
      rw [← regOffset_of_regAt hr, reservedOffset_regOffset] at hres
      exact absurd hres (by decide)

end Sys2Proof.Machine
end

section
/-! SUPPORT. Which part of the host's side each operation leaves: no access touches the script or the RESET
level, and RESET being driven touches only the level (20_memory.md R81, 70_reset_and_hazards.md R231). -/

namespace Sys2Proof.Machine

/-- No command touches the host's side, however it ends. -/
theorem exec_host {i : Instr} {s t : State} (h : exec i s = .next t) : t.host = s.host := by
  obtain ⟨-, rfl⟩ | ⟨-, ht⟩ | ⟨-, ht⟩ | ⟨-, ht⟩ := exec_cases h
  · exact raiseFault_host .shiftRange s
  all_goals exact ht.host

@[simp] theorem busError_script (off : BitVec 12) (wr : Bool) (size : AccessSize) (s : State) :
    (busError off wr size s).host.script = s.host.script :=
  (busError_host off wr size s).1

@[simp] theorem driveReset_script (level : Bool) (s : State) :
    (driveReset level s).host.script = s.host.script := by
  unfold driveReset
  split <;> rfl

/-- A read, admitted or a bus error, leaves the script and the RESET level. -/
theorem busRead_keepsScriptAndReset (off : BitVec 12) (size : AccessSize) (s : State) :
    (busRead off size s).host.script = s.host.script ∧
      (busRead off size s).host.resetIn = s.host.resetIn := by
  cases ht : readTarget off size with
  | some r => rw [busRead_admitted ht]; exact ⟨rfl, rfl⟩
  | none => simp [busRead_error ht]

/-- A write, whatever it stores, executes or raises, leaves the script and the RESET level. -/
theorem busWrite_keepsScriptAndReset {off : BitVec 12} {size : AccessSize} {w : Word} {s t : State}
    (h : busWrite off size w s = .next t) :
    t.host.script = s.host.script ∧ t.host.resetIn = s.host.resetIn := by
  obtain ⟨i, -, -, hx⟩ | ⟨d, -, -, rfl⟩ | ⟨r, -, -, rfl⟩ | ⟨-, rfl⟩ := busWrite_cases h
  · rw [exec_host hx]; exact ⟨rfl, rfl⟩
  · exact ⟨rfl, rfl⟩
  · simp
  · simp

/-- Settles O9, by the event the step serves. -/
theorem eventsAreServedInOrder : Obligations.EventsAreServedInOrder := by
  intro s t h
  obtain ⟨hes, rfl⟩ | ⟨level, es, hes, rfl⟩ | ⟨off, size, es, hes, -, rfl⟩ | ⟨off, size, w, es, hes, -, h⟩ :=
    step_cases h
  · exact ⟨by rw [hes]; rfl, fun _ => rfl⟩
  · refine ⟨by simp [hes], fun hev => ?_⟩
    exact absurd (hev (.reset level) (by simp [hes])) (by simp [isResetEvent])
  · obtain ⟨hscript, hreset⟩ := busRead_keepsScriptAndReset off size (setScript es s)
    exact ⟨by rw [hscript, hes]; rfl, fun _ => hreset⟩
  · obtain ⟨hscript, hreset⟩ := busWrite_keepsScriptAndReset h
    exact ⟨by rw [hscript, hes]; rfl, fun _ => hreset⟩

end Sys2Proof.Machine
end

section
/-! SUPPORT. A bus access as a step: with RESET released the next access is served, and what it reaches is
decided by the register at its offset (20_memory.md R72–R75, R86). -/

namespace Sys2Proof.Machine

/-- With RESET released the next read is served. -/
theorem step_read {s : State} {off : BitVec 12} {size : AccessSize} {es : List HostEvent}
    (hs : s.host.script = .read off size :: es) (hr : s.host.resetIn = false) :
    step s = .next (busRead off size (setScript es s)) := by
  rw [step_serve hs]
  simp [serve, hr]

/-- With RESET released the next write is served. -/
theorem step_write {s : State} {off : BitVec 12} {size : AccessSize} {w : Word} {es : List HostEvent}
    (hs : s.host.script = .write off size w :: es) (hr : s.host.resetIn = false) :
    step s = busWrite off size w (setScript es s) := by
  rw [step_serve hs]
  simp [serve, hr]

/-- A word write reaches the register at its offset unless the register is read-only. -/
theorem writeTarget_of_regAt {off : BitVec 12} {r : Reg} (h : regAt off = some r)
    (hr : regRight r ≠ .ro) : writeTarget off .word = some r :=
  writeTarget_eq_some.mpr ⟨rfl, regOffset_of_regAt h, hr⟩

/-- A write at a reserved or misaligned offset, or to a read-only register, reaches nothing. -/
theorem writeTarget_eq_none {off : BitVec 12}
    (h : regAt off = none ∨ ∃ r, regAt off = some r ∧ regRight r = .ro) (size : AccessSize) : writeTarget off size = none := by
  refine Option.eq_none_iff_forall_ne_some.mpr fun q hq => ?_
  obtain ⟨-, rfl, hright⟩ := writeTarget_eq_some.mp hq
  rw [regAt_regOffset] at h
  obtain h | ⟨r, h, hro⟩ := h
  · cases h
  · cases h; exact hright hro

/-- Settles O12: an admitted write is a store, and any other write a bus error. -/
theorem writeStoresInItsRegisterAlone : Obligations.WriteStoresInItsRegisterAlone := by
  intro s off w es hs hreset
  refine ⟨fun r hat hrw => ?_, fun hno => ?_⟩
  · have hro : regRight r ≠ .ro := by simp [hrw]
    have hcmd : r ≠ .cmd := by rintro rfl; cases hrw
    refine ⟨_, (step_write hs hreset).trans (busWrite_store (writeTarget_of_regAt hat hro) hcmd),
      readReg_writeReg_self hro w _, fun q hq => ?_, writeReg_status r w _⟩
    simp [readReg_writeReg_other hq]
  · refine ⟨_, (step_write hs hreset).trans (busWrite_error (writeTarget_eq_none hno .word)),
      busError_busErr off true .word _, fun q hst hbe => ?_⟩
    simp [readReg_busError hst hbe]

/-- Settles O11: a word read at a register's offset reaches it. -/
theorem admittedReadOnlyReads : Obligations.AdmittedReadOnlyReads := by
  intro s r es hs hreset
  rw [step_read hs hreset, busRead_admitted (readTarget_eq_some.mpr ⟨rfl, rfl⟩), readReg_setScript]
  rfl

end Sys2Proof.Machine
end

section
/-! SUPPORT. Addresses and byte lanes: the window of 4096 bytes at BASE, and a word as its four lanes
(20_memory.md R70, R71). -/

namespace Sys2Proof.Machine

/-- An address within 4096 bytes from BASE reaches its distance from BASE (20_memory.md R70). -/
theorem windowOffset_inside (base : Nat) (off : BitVec 12) :
    windowOffset base (base + off.toNat) = some off := by
  have hlt := off.isLt
  rw [windowOffset, if_pos (by omega), Nat.add_sub_cancel_left, BitVec.ofNat_toNat, BitVec.setWidth_eq]

/-- An address outside the window reaches nothing (20_memory.md R70). -/
theorem windowOffset_outside {base addr : Nat} (h : addr < base ∨ base + 4096 ≤ addr) :
    windowOffset base addr = none := by
  rw [windowOffset, if_neg (by omega)]

/-- Settles O15, by the two sides of the window's bounds. -/
theorem windowReachesItsOffsets : Obligations.WindowReachesItsOffsets :=
  fun base => ⟨windowOffset_inside base, fun _ => windowOffset_outside⟩

/-- A lane is eight bits of the word's value (20_memory.md R71). -/
theorem byteLane_toNat (w : Word) (i : Nat) : (byteLane w i).toNat = w.toNat / 2 ^ (8 * i) % 2 ^ 8 := by
  rw [byteLane, BitVec.extractLsb'_toNat, Nat.shiftRight_eq_div_pow]

/-- The four lanes of a word, lane 0 lowest, are adjacent parts of it that join to the whole
(20_memory.md R71). -/
theorem wordOfLanes_byteLane (w : Word) :
    wordOfLanes (byteLane w 0) (byteLane w 1) (byteLane w 2) (byteLane w 3) = w := by
  simp only [wordOfLanes, byteLane]
  rw [BitVec.extractLsb'_append_extractLsb'_eq_extractLsb' (by rfl),
    BitVec.extractLsb'_append_extractLsb'_eq_extractLsb' (by rfl),
    BitVec.extractLsb'_append_extractLsb'_eq_extractLsb' (by rfl)]
  exact BitVec.extractLsb'_eq_self

/-- Settles O16: each lane by its value, the word by joining adjacent lanes. -/
theorem byteLanesAreLittleEndian : Obligations.ByteLanesAreLittleEndian :=
  fun w => ⟨fun i _ => byteLane_toNat w i, wordOfLanes_byteLane w⟩

end Sys2Proof.Machine
end

section
/-! SUPPORT. The fields of a command word as parts of its bits (30_encoding.md R91, R95–R97): a field is cut
out by its mask, and a PLLS_UPDATE word is its pattern with the shifts moved to their places. -/

namespace Sys2Proof

/-- A field of n bits from bit `lo` on is the word under the field's mask. -/
theorem and_fieldMask (w : Word) (lo n : Nat) :
    w &&& ((BitVec.allOnes n).setWidth 32 <<< lo) = (w.extractLsb' lo n).setWidth 32 <<< lo := by
  refine BitVec.eq_of_getLsbD_eq fun k hk => ?_
  by_cases hlo : k < lo
  · simp [hlo]
  · simp [hlo, hk, show lo + (k - lo) = k by omega, Bool.and_comm]

/-- A word that no bit outside `m` is set in is its part under `m`. -/
theorem and_eq_self_of_and_not {w m : Word} (h : w &&& ~~~m = 0) : w &&& m = w := by
  calc w &&& m = (w &&& m) ||| (w &&& ~~~m) := by rw [h]; simp
    _ = w &&& (m ||| ~~~m) := BitVec.and_or_distrib_left.symm
    _ = w := by rw [show m ||| ~~~m = BitVec.allOnes 32 from by simp, BitVec.and_allOnes]

/-- A field that a mask leaves out is 0 in a word that no bit outside the mask is set in. -/
theorem extractLsb'_eq_zero_of_masked {w m : Word} {lo : Nat} (hw : w &&& ~~~m = 0)
    (hm : m.extractLsb' lo 5 = 0) : w.extractLsb' lo 5 = 0 := by
  rw [← and_eq_self_of_and_not hw, BitVec.extractLsb'_and, hm]
  exact BitVec.and_zero

/-- A word is its OP byte beside its admitted part, if no other bit is set (30_encoding.md R92). -/
theorem opField_or_admitted {w m : Word} (h : w &&& ~~~(0x000000FF#32 ||| m) = 0) :
    (opField w).setWidth 32 ||| (w &&& m) = w := by
  have hop : w &&& 0x000000FF#32 = (opField w).setWidth 32 := by
    simpa [opField] using and_fieldMask w 0 8
  rw [← hop, ← BitVec.and_or_distrib_left, and_eq_self_of_and_not h]

/-- An opcode that admits no field has one word. -/
theorem eq_of_no_fields {w m c : Word} (hm : m = 0) (h : c ||| (w &&& m) = w) : w = c := by
  simpa [hm] using h.symm

/-- The hold flag in its place (30_encoding.md R97). -/
theorem and_holdMask (w : Word) : w &&& 0x02000000#32 = if holdBit w then 0x02000000#32 else 0 :=
  BitVec.and_twoPow w 25

/-- The present flag in its place (30_encoding.md R96). -/
theorem and_presentMask (w : Word) : w &&& 0x01000000#32 = if presentBit w then 0x01000000#32 else 0 :=
  BitVec.and_twoPow w 24

theorem sfField_eq (w : Word) : sfField w = w.toNat / 2 ^ 8 % 2 ^ 5 := by
  rw [sfField, BitVec.extractLsb'_toNat, Nat.shiftRight_eq_div_pow]

theorem spField_eq (w : Word) : spField w = w.toNat / 2 ^ 16 % 2 ^ 5 := by
  rw [spField, BitVec.extractLsb'_toNat, Nat.shiftRight_eq_div_pow]

theorem presentBit_iff (w : Word) : presentBit w = true ↔ w.toNat / 2 ^ 24 % 2 = 1 := by
  rw [presentBit, BitVec.getLsbD, Nat.testBit_eq_decide_div_mod_eq, decide_eq_true_iff]

/-- Under the row's mask PLLS_UPDATE keeps all but its shift fields, so the fields complete the pattern. -/
theorem pllsWord_shiftFields {w p : Word} (h : w &&& 0xFFE0E0FF#32 = p) :
    pllsWord p (sfField w) (spField w) = w := by
  have hsf : BitVec.ofNat 32 (sfField w) <<< 8 = w &&& 0x00001F00#32 := by
    rw [sfField, BitVec.ofNat_toNat]
    exact (and_fieldMask w 8 5).symm
  have hsp : BitVec.ofNat 32 (spField w) <<< 16 = w &&& 0x001F0000#32 := by
    rw [spField, BitVec.ofNat_toNat]
    exact (and_fieldMask w 16 5).symm
  rw [pllsWord, hsf, hsp, ← h, ← BitVec.and_or_distrib_left, ← BitVec.and_or_distrib_left]
  exact BitVec.and_allOnes

/-- A 5-bit field moved to bit `lo` is read back there. -/
theorem extractLsb'_placed_same (f : BitVec 5) {lo : Nat} (h : lo + 5 ≤ 32) :
    (f.setWidth 32 <<< lo).extractLsb' lo 5 = f := by
  refine BitVec.eq_of_getLsbD_eq fun k hk => ?_
  simp [hk, show lo + k < 32 by omega]

/-- A 5-bit field moved to bit `lo` leaves the other fields 0. -/
theorem extractLsb'_placed_other (f : BitVec 5) {lo lo' : Nat} (h : lo + 5 ≤ lo' ∨ lo' + 5 ≤ lo) :
    (f.setWidth 32 <<< lo).extractLsb' lo' 5 = 0 := by
  refine BitVec.eq_of_getLsbD_eq fun k hk => ?_
  obtain h | h := h
  · simp [BitVec.getLsbD_of_ge f (lo' + k - lo) (by omega)]
  · simp [show lo' + k < lo by omega]

/-- Shifts that fit are read back from a PLLS_UPDATE word whose pattern leaves their fields 0. -/
theorem shiftFields_pllsWord {p : Word} (hpf : p.extractLsb' 8 5 = 0) (hpp : p.extractLsb' 16 5 = 0)
    {sf sp : Nat} (h : (shiftFits sf && shiftFits sp) = true) :
    sfField (pllsWord p sf sp) = sf ∧ spField (pllsWord p sf sp) = sp := by
  obtain ⟨hsf, hsp⟩ : sf < 32 ∧ sp < 32 := by simpa [shiftFits] using h
  have hplace : ∀ n < 32, BitVec.ofNat 32 n = (BitVec.ofNat 5 n).setWidth 32 := fun n hn =>
    BitVec.eq_of_toNat_eq (by simp; omega)
  rw [pllsWord, sfField, spField, hplace sf hsf, hplace sp hsp]
  simp only [BitVec.extractLsb'_or, hpf, hpp, extractLsb'_placed_same _ (show 8 + 5 ≤ 32 by decide),
    extractLsb'_placed_same _ (show 16 + 5 ≤ 32 by decide),
    extractLsb'_placed_other _ (show 8 + 5 ≤ 16 ∨ 16 + 5 ≤ 8 by decide),
    extractLsb'_placed_other _ (show 16 + 5 ≤ 8 ∨ 8 + 5 ≤ 16 by decide)]
  simp
  omega

end Sys2Proof
end

section
/-! SUPPORT. The decoder against the opcode map (30_encoding.md R92, R93): a word decodes to an instruction
exactly if it lies in the instruction's row and its shift fields hold the instruction's shifts. -/

namespace Sys2Proof

/-- The OP byte of an opcode (30_encoding.md R93). -/
def opByte : Opcode → Byte
  | .cossin => 0x01
  | .iirUpdate => 0x10
  | .iirSetPi => 0x11
  | .iirSetXoff => 0x12
  | .iirGetXoff => 0x13
  | .iirGetK => 0x14
  | .pllsUpdate => 0x20
  | .pllsRead => 0x21
  | .pllgUpdate => 0x30
  | .pllgRead => 0x31

/-- The map's opcodes are one to one with their bytes. -/
theorem opcodeOf_eq_some_iff {b : Byte} {op : Opcode} : opcodeOf b = some op ↔ b = opByte op := by
  constructor
  · intro h
    refine BitVec.eq_of_toNat_eq ?_
    unfold opcodeOf at h
    split at h <;> cases h <;> assumption
  · rintro rfl
    cases op <;> rfl

/-- What `Decode` accepts: a mapped opcode and no bit outside its admitted fields (30_encoding.md R92). -/
theorem decode_eq_ok_iff_commandOf {w : Word} {i : Instr} :
    decode w = .ok i ↔ ∃ op, opField w = opByte op ∧
      w &&& ~~~(0x000000FF#32 ||| admittedBits op) = 0 ∧ commandOf op w = i := by
  cases ho : opcodeOf (opField w) with
  | none =>
    have hno : ∀ op, opField w ≠ opByte op := fun op h => by simp [opcodeOf_eq_some_iff.mpr h] at ho
    simp [decode, ho, hno]
  | some op =>
    have hop := opcodeOf_eq_some_iff.mp ho
    have huniq : ∀ op', opField w = opByte op' ↔ op' = op := fun op' => by
      rw [← opcodeOf_eq_some_iff, ho, Option.some.injEq, eq_comm]
    simp only [decode, ho, huniq, exists_eq_left]
    split <;> simp_all

/-- The instruction of the same row with the shifts that a word's fields hold (30_encoding.md R95). -/
def withShiftsOf (w : Word) : Instr → Instr
  | .pllsUpdate _ _ => .pllsUpdate (sfField w) (spField w)
  | .pllsUpdateMiss _ _ => .pllsUpdateMiss (sfField w) (spField w)
  | i => i

/-- A 5-bit field fits. -/
theorem withShiftsOf_wf (w : Word) (i : Instr) : (withShiftsOf w i).wf = true := by
  cases i with
  | pllsUpdate | pllsUpdateMiss =>
    have hsf : sfField w < 32 := BitVec.isLt _
    have hsp : spField w < 32 := BitVec.isLt _
    simp [withShiftsOf, Instr.wf, shiftFits, hsf, hsp]
  | _ => rfl

/-- A word that PLLS_UPDATE's mask takes to the pattern with present bit p decodes to that PLLS_UPDATE. -/
theorem decode_of_pllsRow {w : Word} {p : Bool}
    (h : w &&& 0xFFE0E0FF#32 = (BitVec.ofBool p).setWidth 32 <<< 24 ||| 0x00000020#32) :
    decode w = .ok (if p then .pllsUpdate (sfField w) (spField w)
      else .pllsUpdateMiss (sfField w) (spField w)) := by
  have hop : opField w = 0x20 := by
    have : opField w = opField (w &&& 0xFFE0E0FF#32) := by
      rw [opField, opField, BitVec.extractLsb'_and]
      exact BitVec.and_allOnes.symm
    rw [this, h]
    cases p <;> rfl
  have hp : presentBit w = p := by
    have : presentBit w = presentBit (w &&& 0xFFE0E0FF#32) := by
      simp [presentBit]
    rw [this, h]
    cases p <;> rfl
  refine decode_eq_ok_iff_commandOf.mpr ⟨.pllsUpdate, hop, ?_, by simp [commandOf, hp]⟩
  calc w &&& ~~~(0x000000FF#32 ||| 0x011F1F00#32)
      = (w &&& 0xFFE0E0FF#32) &&& ~~~(0x000000FF#32 ||| 0x011F1F00#32) := by
        rw [BitVec.and_assoc]; rfl
    _ = 0 := by rw [h]; cases p <;> rfl

/-- A word of an instruction's row decodes to that instruction, with the shifts of its fields. -/
theorem decode_of_admits {w : Word} {i : Instr} (h : (rowOf i).admits w = true) :
    decode w = .ok (withShiftsOf w i) := by
  have hw : w &&& (rowOf i).mask = (rowOf i).pattern := by simpa [OpRow.admits] using h
  cases i with
  | pllsUpdate sf sp => exact decode_of_pllsRow (p := true) hw
  | pllsUpdateMiss sf sp => exact decode_of_pllsRow (p := false) hw
  | _ =>
    obtain rfl := (BitVec.and_allOnes (x := w)).symm.trans hw
    rfl

/-- A word that decodes lies in the row of its instruction. -/
theorem admits_of_decode {w : Word} {i : Instr} (h : decode w = .ok i) : (rowOf i).admits w = true := by
  obtain ⟨op, hop, hbits, rfl⟩ := decode_eq_ok_iff_commandOf.mp h
  have hw := opField_or_admitted hbits
  rw [hop] at hw
  cases op with
  | iirUpdate =>
    have hflag : 0x00000010#32 ||| (w &&& 0x02000000#32) = w := hw
    rw [and_holdMask] at hflag
    cases hh : holdBit w with
    | true | false =>
      simp only [hh, commandOf] at hflag ⊢
      rw [← hflag]
      rfl
  | pllgUpdate =>
    have hflag : 0x00000030#32 ||| (w &&& 0x01000000#32) = w := hw
    rw [and_presentMask] at hflag
    cases hp : presentBit w with
    | true | false =>
      simp only [hp, commandOf] at hflag ⊢
      rw [← hflag]
      rfl
  | pllsUpdate =>
    have hrow : w &&& 0xFFE0E0FF#32 = 0x00000020#32 ||| if presentBit w then 0x01000000#32 else 0 := by
      calc w &&& 0xFFE0E0FF#32
          = (0x00000020#32 ||| (w &&& 0x011F1F00#32)) &&& 0xFFE0E0FF#32 :=
            congrArg (· &&& 0xFFE0E0FF#32) hw.symm
        _ = 0x00000020#32 ||| (w &&& 0x01000000#32) := by
          rw [BitVec.and_comm, BitVec.and_or_distrib_left, BitVec.and_comm _ (w &&& _), BitVec.and_assoc]
          rfl
        _ = _ := by rw [and_presentMask]
    cases hp : presentBit w <;> simp [OpRow.admits, commandOf, rowOf, hrow, hp]
  | _ =>
    rw [eq_of_no_fields rfl hw]
    rfl

/-- A word is the word of the instruction it decodes to. -/
theorem encode_withShiftsOf {w : Word} {i : Instr} (h : (rowOf i).admits w = true) :
    encode (withShiftsOf w i) = w := by
  have hw : w &&& (rowOf i).mask = (rowOf i).pattern := by simpa [OpRow.admits] using h
  cases i with
  | pllsUpdate | pllsUpdateMiss => exact pllsWord_shiftFields hw
  | _ => exact hw.symm.trans BitVec.and_allOnes

/-- The word of a well-formed instruction holds its shifts. -/
theorem withShiftsOf_encode {i : Instr} (h : i.wf = true) : withShiftsOf (encode i) i = i := by
  cases i with
  | pllsUpdate sf sp =>
    obtain ⟨hsf, hsp⟩ := shiftFields_pllsWord (p := 0x01000020) rfl rfl h
    rw [encode, withShiftsOf, hsf, hsp]
  | pllsUpdateMiss sf sp =>
    obtain ⟨hsf, hsp⟩ := shiftFields_pllsWord (p := 0x00000020) rfl rfl h
    rw [encode, withShiftsOf, hsf, hsp]
  | _ => rfl

/-- The word of a well-formed instruction lies in its row. -/
theorem admits_encode {i : Instr} (h : i.wf = true) : (rowOf i).admits (encode i) = true := by
  cases i with
  | pllsUpdate sf sp => exact Laws.EncodeRow.pllsUpdate sf sp h
  | pllsUpdateMiss sf sp => exact Laws.EncodeRow.pllsUpdateMiss sf sp h
  | _ => rfl

/-- A word decodes to the instruction whose row it lies in and whose shifts its fields hold. -/
theorem decode_eq_ok_iff {w : Word} {i : Instr} :
    decode w = .ok i ↔ (rowOf i).admits w = true ∧ withShiftsOf w i = i := by
  constructor
  · intro h
    have hrow := admits_of_decode h
    exact ⟨hrow, Decoded.ok.inj ((decode_of_admits hrow).symm.trans h)⟩
  · rintro ⟨hrow, hshifts⟩
    rw [decode_of_admits hrow, hshifts]

end Sys2Proof
end

section
/-! SUPPORT. The encoding obligations: the round trip, the rows, the reserved opcodes and the shift fields
(30_encoding.md R92–R95). -/

namespace Sys2Proof

open Machine (reservedOpValue)

/-- A word's byte lanes decode as the word. -/
theorem decodeLanes_lanesOf (w : Word) : decodeLanes (lanesOf w) = decode w :=
  congrArg decode (Machine.wordOfLanes_byteLane w)

/-- Settles O2: the encoded word lies in the instruction's row and holds its shifts. -/
theorem decodeOfEncodeIsTheInstruction : Obligations.DecodeOfEncodeIsTheInstruction := by
  intro i h
  have hd : decode (encode i) = .ok i := decode_eq_ok_iff.mpr ⟨admits_encode h, withShiftsOf_encode h⟩
  exact ⟨hd, (decodeLanes_lanesOf _).trans hd⟩

/-- Settles O3: row and shift fields together are all 32 bits of the word. -/
theorem encodeOfDecodeIsTheWord : Obligations.EncodeOfDecodeIsTheWord := by
  intro w i h
  obtain ⟨hrow, hshifts⟩ := decode_eq_ok_iff.mp h
  rw [← hshifts]
  exact ⟨withShiftsOf_wf w i, encode_withShiftsOf hrow⟩

/-- Every instruction's row is one of the thirteen. -/
theorem rowOf_mem_opRows (i : Instr) : rowOf i ∈ opRows := by
  cases i <;> simp [opRows, oneOfEachRow, rowOf]

/-- Two rows differ in a bit that both fix. -/
theorem opRows_disagree : ∀ r ∈ opRows, ∀ q ∈ opRows, r ≠ q → r.pattern &&& q.mask ≠ q.pattern &&& r.mask := by
  decide

/-- A word of two rows agrees with both on the bits that both fix. -/
theorem patterns_agree_of_admits {r q : OpRow} {w : Word} (hr : r.admits w = true) (hq : q.admits w = true) :
    r.pattern &&& q.mask = q.pattern &&& r.mask := by
  simp only [OpRow.admits, beq_iff_eq] at hr hq
  rw [← hr, ← hq, BitVec.and_assoc, BitVec.and_assoc, BitVec.and_comm r.mask]

/-- Settles O4: rows disagree on a common bit, and the row of a word is that of its instruction. -/
theorem rowsAreDisjointAndCoverDecode : Obligations.RowsAreDisjointAndCoverDecode := by
  refine ⟨fun r hr q hq hne w hw => ?_, fun w => ⟨?_, ?_⟩, fun w i h => ?_⟩
  · exact opRows_disagree r hr q hq hne (patterns_agree_of_admits hw.1 hw.2)
  · rintro ⟨r, hr, hw⟩
    obtain ⟨i, -, rfl⟩ := List.mem_map.mp hr
    exact ⟨withShiftsOf w i, decode_of_admits hw⟩
  · rintro ⟨i, h⟩
    exact ⟨rowOf i, rowOf_mem_opRows i, admits_of_decode h⟩
  · exact ⟨rowOf_mem_opRows i, admits_of_decode h⟩

/-- No opcode of the map is reserved (30_encoding.md R94). -/
theorem reservedOpValue_opByte (op : Opcode) : reservedOpValue (opByte op).toNat = false := by
  cases op <;> rfl

/-- The values that the reserved ranges leave (30_encoding.md R94). -/
theorem mem_of_not_reservedOpValue {n : Nat} (hn : n < 256) (h : reservedOpValue n = false) :
    n ∈ [0x01, 0x10, 0x11, 0x12, 0x13, 0x14, 0x20, 0x21, 0x30, 0x31] := by
  simp [reservedOpValue] at h ⊢
  omega

/-- Each of these values is the opcode of a row. -/
theorem exists_row_of_opcode : ∀ n ∈ [0x01, 0x10, 0x11, 0x12, 0x13, 0x14, 0x20, 0x21, 0x30, 0x31],
    ∃ r ∈ opRows, opField r.pattern = BitVec.ofNat 8 n := by
  decide

/-- Settles O5: the reserved values are those of no opcode, and the ten others are those of the rows. -/
theorem reservedOpcodesAreIllegal : Obligations.ReservedOpcodesAreIllegal := by
  refine ⟨rfl, by decide, by decide +kernel, fun w hw => ?_, fun b hb => ?_⟩
  · have hnone : opcodeOf (opField w) = none := by
      refine Option.eq_none_iff_forall_ne_some.mpr fun op hop => ?_
      rw [opcodeOf_eq_some_iff.mp hop, reservedOpValue_opByte] at hw
      exact absurd hw (by decide)
    simp [decode, hnone]
  · simpa using exists_row_of_opcode b.toNat (mem_of_not_reservedOpValue b.isLt hb)

/-- No other opcode admits a bit of a shift field (30_encoding.md R92). -/
theorem admittedBits_shiftFields {op : Opcode} (h : op ≠ .pllsUpdate) :
    (0x000000FF#32 ||| admittedBits op).extractLsb' 8 5 = 0 ∧
      (0x000000FF#32 ||| admittedBits op).extractLsb' 16 5 = 0 := by
  cases op with
  | pllsUpdate => exact absurd rfl h
  | _ => exact ⟨rfl, rfl⟩

/-- Settles O6: the opcode tells whether the shift fields are read or not admitted. -/
theorem shiftFieldsBelongToPllsUpdate : Obligations.ShiftFieldsBelongToPllsUpdate := by
  intro w i h
  obtain ⟨op, hop, hbits, rfl⟩ := decode_eq_ok_iff_commandOf.mp h
  refine ⟨fun h20 => ?_, fun h20 => ?_⟩
  · obtain rfl : op = .pllsUpdate := by
      rw [h20] at hop
      cases op with
      | pllsUpdate => rfl
      | _ => cases hop
    simp only [commandOf, presentBit_iff, sfField_eq, spField_eq]
  · have hother : op ≠ .pllsUpdate := by
      rintro rfl
      exact h20 hop
    obtain ⟨hsf, hsp⟩ := admittedBits_shiftFields hother
    rw [← sfField_eq, ← spField_eq, sfField, spField, extractLsb'_eq_zero_of_masked hbits hsf,
      extractLsb'_eq_zero_of_masked hbits hsp]
    exact ⟨rfl, rfl⟩

/-- Settles O1, each word by running the decoder. -/
theorem writtenOutWordsDecode : Obligations.WrittenOutWordsDecode :=
  ⟨rfl, rfl, rfl, rfl, rfl, rfl, rfl⟩

end Sys2Proof
end

section
/-! SUPPORT. What starts a command: a word written to CMD and no other access (30_encoding.md R90). -/

namespace Sys2Proof.Machine

/-- Settles O7: the write reaches CMD, and its word decodes. -/
theorem stepRunsTheDecodedCommand : Obligations.StepRunsTheDecodedCommand := by
  intro s w i es hs hr hd
  have htarget : writeTarget 0x00C .word = some .cmd := by decide
  rw [step_write hs hr, busWrite_command htarget, execWord_ok hd]
  rfl

/-- What only commands write is in t as in s: CMD, the results, the latches, FCMD, ERR and FAULT. -/
structure KeepsCommandRecords (s t : State) : Prop where
  regs : ∀ r ∈ [Reg.cmd, .res0, .res1, .fcmd, .pllsPh, .pllsFr], readReg r t = readReg r s
  err : t.status.err = s.status.err
  fault : t.status.fault = s.status.fault

/-- A bus error is recorded in BUSERR and BEADDR alone (60_exceptions.md R207). -/
theorem keepsCommandRecords_busError (off : BitVec 12) (wr : Bool) (size : AccessSize) (s : State) :
    KeepsCommandRecords s (busError off wr size s) where
  regs r hr := readReg_busError (by rintro rfl; simp at hr) (by rintro rfl; simp at hr) off wr size s
  err := busError_err off wr size s
  fault := busError_fault off wr size s

/-- No host write reaches what only commands write (20_memory.md R75). -/
theorem keepsCommandRecords_writeReg {r : Reg} (hro : regRight r ≠ .ro) (hcmd : r ≠ .cmd) (w : Word)
    (s : State) : KeepsCommandRecords s (writeReg r w s) where
  regs q hq := by
    have hright : ∀ q ∈ [Reg.cmd, .res0, .res1, .fcmd, .pllsPh, .pllsFr], regRight q = .ro ∨ q = .cmd := by
      decide
    refine readReg_writeReg_other ?_ w s
    rintro rfl
    exact (hright q hq).elim hro hcmd
  err := by rw [writeReg_status]
  fault := by rw [writeReg_status]

theorem KeepsCommandRecords.setRdata {s t : State} (h : KeepsCommandRecords s t) (d : Option Word) :
    KeepsCommandRecords s (setRdata d t) :=
  ⟨fun r hr => (readReg_setRdata r d t).trans (h.regs r hr), h.err, h.fault⟩

theorem keepsCommandRecords_busRead (off : BitVec 12) (size : AccessSize) (s : State) :
    KeepsCommandRecords s (busRead off size s) := by
  cases ht : readTarget off size with
  | some r => rw [busRead_admitted ht]; exact KeepsCommandRecords.setRdata ⟨fun _ _ => rfl, rfl, rfl⟩ _
  | none => rw [busRead_error ht]; exact (keepsCommandRecords_busError off false size s).setRdata _

/-- A write that is not a word at the offset of CMD stores in another register or is a bus error. -/
theorem keepsCommandRecords_busWrite {off : BitVec 12} {size : AccessSize} {w : Word} {s t : State}
    (hne : writeTarget off size ≠ some .cmd) (h : busWrite off size w s = .next t) :
    KeepsCommandRecords s t := by
  obtain ⟨i, hcmd, -, -⟩ | ⟨d, hcmd, -, -⟩ | ⟨r, ht, hr, rfl⟩ | ⟨-, rfl⟩ := busWrite_cases h
  · exact absurd hcmd hne
  · exact absurd hcmd hne
  · obtain ⟨-, -, hro⟩ := writeTarget_eq_some.mp ht
    obtain ⟨hregs, herr, hfault⟩ := keepsCommandRecords_writeReg hro hr w (setRdata none s)
    exact ⟨by simpa using hregs, herr, hfault⟩
  · obtain ⟨hregs, herr, hfault⟩ := keepsCommandRecords_busError off true size (setRdata none s)
    exact ⟨by simpa using hregs, herr, hfault⟩

/-- Settles O8, by the access the step serves. -/
theorem noOtherAccessStartsACommand : Obligations.NoOtherAccessStartsACommand := by
  intro s t e es hes hreset hne h
  have hkeeps : KeepsCommandRecords s t := by
    obtain ⟨hs, -⟩ | ⟨level, es, hs, -⟩ | ⟨off, size, es, hs, -, rfl⟩ | ⟨off, size, w, es, hs, -, h⟩ :=
      step_cases h <;> rw [hes] at hs <;> cases hs
    · cases hreset
    · obtain ⟨hregs, herr, hfault⟩ := keepsCommandRecords_busRead off size (setScript es s)
      exact ⟨by simpa using hregs, herr, hfault⟩
    · have htarget : writeTarget off size ≠ some .cmd := fun ht => by
        obtain ⟨rfl, rfl, -⟩ := writeTarget_eq_some.mp ht
        exact hne w rfl
      obtain ⟨hregs, herr, hfault⟩ := keepsCommandRecords_busWrite htarget h
      exact ⟨by simpa using hregs, herr, hfault⟩
  obtain ⟨hregs, herr, hfault⟩ := hkeeps
  exact ⟨hregs .cmd (by decide), hregs .res0 (by decide), hregs .res1 (by decide),
    hregs .fcmd (by decide), herr, hfault, hregs .pllsPh (by decide), hregs .pllsFr (by decide)⟩

end Sys2Proof.Machine
end

section
/-! SUPPORT. The frame of a command that does not fault: each register update is seen in the command's
destinations alone (30_encoding.md R93, R101), and the end of a command in STATUS.ERR alone. -/

namespace Sys2Proof.Machine

/-- The IIR state is seen in its own registers alone. -/
theorem readReg_setXy {r : Reg} (h : r ∉ [Reg.iirXy0, .iirXy1, .iirXy2, .iirXy3, .iirXy4]) (v : IirXy)
    (s : State) : readReg r (setXy v s) = readReg r s := by
  cases r <;> simp_all [readReg]

/-- The PI synthesis is seen in the taps alone: the offset and the bounds stay (41_biquad_iir.md R144). -/
theorem readReg_setIir_withPi {r : Reg} (h : r ∉ [Reg.iirBa0, .iirBa1, .iirBa2, .iirBa3, .iirBa4])
    (p : PiResult) (s : State) : readReg r (setIir (withPi p s.iir) s) = readReg r s := by
  cases r <;> simp_all [readReg, withPi]

/-- The output offset is seen in its own register alone. -/
theorem readReg_setIir_yoff {r : Reg} (h : r ≠ .iirYoff) (y : Word) (s : State) :
    readReg r (setIir { s.iir with yoff := y } s) = readReg r s := by
  cases r <;> simp_all [readReg]

/-- The PLLS registers are seen in themselves alone. -/
theorem readReg_setPlls {r : Reg} (h : r ∉ [Reg.pllsX, .pllsF, .pllsY, .pllsPh, .pllsFr]) (p : Plls)
    (s : State) : readReg r (setPlls p s) = readReg r s := by
  cases r <;> simp_all [readReg]

/-- The PLLG registers are seen in themselves alone. -/
theorem readReg_setPllg {r : Reg}
    (h : r ∉ [Reg.pllgX, .pllgFLo, .pllgFHi, .pllgYLo, .pllgYHi, .pllgF0, .pllgY0]) (g : Pllg) (s : State) :
    readReg r (setPllg g s) = readReg r s := by
  cases r <;> simp_all [readReg]

/-- A missing sample leaves F and f0 (43_pll_gain.md R185). -/
theorem readReg_setPllg_missing {r : Reg} (h : r ∉ [Reg.pllgX, .pllgYLo, .pllgYHi, .pllgY0]) (s : State) :
    readReg r (setPllg (pllgMissing s.pllg) s) = readReg r s := by
  cases r <;> simp_all [readReg, pllgMissing, withAccs, accF]

/-- A PLLS update with legal shifts is seen in the PLLS registers and the results alone. -/
theorem readReg_pllsUpdate {sf sp : Nat} (hlegal : shiftsLegal sf sp = true) {r : Reg} (hst : r ≠ .status)
    (h : r ∉ [Reg.pllsX, .pllsF, .pllsY, .pllsPh, .pllsFr, .res0, .res1]) (sample : Option Word) (s : State) :
    readReg r (pllsUpdate sample sf sp s) = readReg r s := by
  rw [pllsUpdate_legal hlegal, readReg_complete hst, readReg_setRes01 (by simp_all) (by simp_all),
    readReg_setPlls (by simp_all)]

/-- An IIR update is seen in the IIR state and RES0 alone. -/
theorem readReg_iirUpdate {r : Reg} (hst : r ≠ .status)
    (h : r ∉ [Reg.iirXy0, .iirXy1, .iirXy2, .iirXy3, .iirXy4, .res0]) (hold : Bool) (s : State) :
    readReg r (iirUpdate hold s) = readReg r s := by
  rw [iirUpdate, readReg_complete hst, readReg_setRes0 (by simp_all), readReg_setXy (by simp_all)]

/-- A command that does not fault is seen in its destinations and STATUS alone. -/
theorem readReg_exec {i : Instr} {s t : State} (hgood : badShift i = false) (h : exec i s = .next t) {r : Reg}
    (hst : r ≠ .status) (hr : r ∉ commandDests i) : readReg r t = readReg r s := by
  cases i with
  | cossin | pllsRead | pllgRead =>
    obtain rfl := Host.Outcome.next.inj h
    rw [readReg_complete hst, readReg_setRes01 (by simp_all [commandDests]) (by simp_all [commandDests])]
  | iirUpdate | iirUpdateHold =>
    obtain rfl := Host.Outcome.next.inj h
    exact readReg_iirUpdate hst hr _ s
  | iirSetpi =>
    cases hd : (piCoeffs s.arg0 s.arg1 s.arg2).degenerate with
    | true =>
      obtain rfl := Host.Outcome.next.inj ((execIirSetpi_degenerate hd).symm.trans h)
      exact readReg_raiseStatusError hst .piDegenerate s
    | false =>
      obtain rfl := Host.Outcome.next.inj ((execIirSetpi_regular hd).symm.trans h)
      rw [readReg_complete hst, readReg_setIir_withPi hr]
  | iirSetxoff =>
    obtain rfl := Host.Outcome.next.inj h
    rw [readReg_complete hst, readReg_setIir_yoff (List.ne_of_not_mem_cons hr)]
  | iirGetxoff =>
    cases hk : small (dcGain s.iir) with
    | true =>
      obtain rfl := Host.Outcome.next.inj ((execIirGetxoff_small hk).symm.trans h)
      exact readReg_raiseStatusError hst .xoffUndefined s
    | false =>
      obtain rfl := Host.Outcome.next.inj ((execIirGetxoff_notSmall hk).symm.trans h)
      rw [readReg_complete hst, readReg_setRes0 (List.ne_of_not_mem_cons hr)]
  | iirGetk =>
    obtain rfl := Host.Outcome.next.inj h
    rw [readReg_complete hst, readReg_setRes0 (List.ne_of_not_mem_cons hr)]
  | pllsUpdate sf sp | pllsUpdateMiss sf sp =>
    obtain rfl := Host.Outcome.next.inj h
    exact readReg_pllsUpdate (by simpa [badShift] using hgood) hst hr _ s
  | pllgUpdate =>
    obtain rfl := Host.Outcome.next.inj h
    rw [readReg_complete hst, readReg_setPllg hr]
  | pllgUpdateMiss =>
    obtain rfl := Host.Outcome.next.inj h
    rw [readReg_complete hst, readReg_setPllg_missing hr]

/-- However a command ends, its end leaves the sticky bits and the host's side. -/
theorem EndsWith.keepsAllBut {e : ErrCode} {dests : List Reg} {s t : State} (h : EndsWith e s t)
    (hregs : ∀ r, r ≠ .status → r ∉ dests → readReg r t = readReg r s) : KeepsAllBut dests s t :=
  ⟨hregs, by rw [h.status], by rw [h.status], h.host⟩

/-- The frame of every command that does not fault (30_encoding.md R93, R101). -/
theorem exec_frame {i : Instr} {s t : State} (hgood : badShift i = false) (h : exec i s = .next t) :
    KeepsAllBut (commandDests i) s t := by
  have hregs := fun r => readReg_exec (r := r) hgood h
  obtain ⟨hbad, -⟩ | ⟨-, ht⟩ | ⟨-, ht⟩ | ⟨-, ht⟩ := exec_cases h
  · rw [hgood] at hbad
    cases hbad
  all_goals exact ht.keepsAllBut hregs

/-- Settles O37: no IIR command faults. -/
theorem iirCommandsFrame : Obligations.IirCommandsFrame := by
  intro i s t hi h
  have hgood : ∀ j ∈ [Instr.iirUpdate, .iirUpdateHold, .iirSetpi, .iirSetxoff, .iirGetxoff, .iirGetk],
      badShift j = false := by decide
  exact exec_frame (hgood i hi) h

/-- Shifts from 1 to 30 are legal (42_pll_shift.md R161). -/
theorem shiftsLegal_of_bounds {sf sp : Nat} (hf : 1 ≤ sf) (hf' : sf ≤ 30) (hp : 1 ≤ sp) (hp' : sp ≤ 30) :
    shiftsLegal sf sp = true := by
  simp [shiftsLegal, shiftLegal, shiftMin, shiftMax, hf, hf', hp, hp']

/-- Settles O44: COSSIN and PLLS_READ never fault, a PLLS_UPDATE not with legal shifts. -/
theorem cossinAndPllsCommandsFrame : Obligations.CossinAndPllsCommandsFrame := by
  refine ⟨fun s t h => exec_frame rfl h, fun s t h => exec_frame rfl h, ?_⟩
  intro i sf sp s t hf hf' hp hp' hi h
  have hlegal := shiftsLegal_of_bounds hf hf' hp hp'
  obtain rfl | rfl := hi
  · exact exec_frame (by simp [badShift, hlegal]) h
  · exact exec_frame (by simp [badShift, hlegal]) h

/-- Settles O49: no PLLG command faults. -/
theorem pllgCommandsFrame : Obligations.PllgCommandsFrame := by
  intro i s t hi h
  have hgood : ∀ j ∈ [Instr.pllgUpdate, .pllgUpdateMiss, .pllgRead], badShift j = false := by decide
  exact exec_frame (hgood i hi) h

end Sys2Proof.Machine
end

section
/-! SUPPORT. The CosSin table as natural numbers (40_cossin.md R111). -/

namespace Sys2Proof.Machine

theorem cosSinTable_length : cosSinTable.length = 128 := by decide +kernel

/-- Every value of the table has 17 bits. -/
theorem cosSinTable_lt : ∀ e ∈ cosSinTable, e.1 < 2 ^ 17 ∧ e.2 < 2 ^ 17 := by decide +kernel

/-- The upper field of a ROM word is C. -/
theorem romWord_cos (e : Nat × Nat) : (romWord e).extractLsb' 17 17 = BitVec.ofNat 17 e.1 :=
  BitVec.extractLsb'_append_eq_left

/-- The lower field of a ROM word is S. -/
theorem romWord_sin (e : Nat × Nat) : (romWord e).extractLsb' 0 17 = BitVec.ofNat 17 e.2 :=
  BitVec.extractLsb'_append_eq_right

/-- Every index of 7 bits finds an entry. -/
theorem cosSinTable_getElem? (i : BitVec 7) :
    cosSinTable[i.toNat]? = some (cosSinTable.getD i.toNat (0, 0)) := by
  have hi : i.toNat < cosSinTable.length := by simp [cosSinTable_length, i.isLt]
  simp [List.getD, List.getElem?_eq_getElem hi]

/-- Packing an entry into its ROM word and reading the word loses nothing. -/
theorem lutRead_toNat (i : BitVec 7) :
    ((lutRead i).1.toNat, (lutRead i).2.toNat) = cosSinTable.getD i.toNat (0, 0) := by
  obtain ⟨hc, hs⟩ := cosSinTable_lt _ (List.mem_of_getElem? (cosSinTable_getElem? i))
  simp only [lutRead, romWord_cos, romWord_sin, BitVec.toNat_ofNat, Nat.mod_eq_of_lt hc,
    Nat.mod_eq_of_lt hs]

/-- Settles O18: the checksums are sums over a fixed list; LutRead unpacks the entry it finds. -/
theorem tableHasItsChecksums : Obligations.TableHasItsChecksums := by
  refine ⟨cosSinTable_length, by decide +kernel, by decide +kernel, cosSinTable_lt, fun i => ?_⟩
  rw [lutRead_toNat, cosSinTable_getElem?]

end Sys2Proof.Machine
end

section
/-! SUPPORT. The steps of COSSIN read as exact arithmetic (40_cossin.md R112–R117): the octant and the fold
are divisions and remainders of the phase, and the first-octant pair depends on the low 29 bits alone. -/

namespace Sys2Proof.Machine

/-- The octant is the phase over an eighth of a turn (40_cossin.md R112). -/
theorem octant_toNat (p : Word) : (octant p).toNat = p.toNat / 2 ^ 29 := by
  simp only [octant, BitVec.extractLsb'_toNat, Nat.shiftRight_eq_div_pow]
  omega

/-- The fold complements the phase in an odd octant (40_cossin.md R112). -/
theorem foldPhase_toNat (p : Word) :
    (foldPhase p).toNat = if p.toNat / 2 ^ 29 % 2 = 1 then 2 ^ 32 - 1 - p.toNat else p.toNat := by
  have hodd : (octant p).getLsbD 0 = decide (p.toNat / 2 ^ 29 % 2 = 1) := by
    rw [BitVec.getLsbD, octant_toNat, Nat.testBit_zero]
  simp only [foldPhase, hodd, decide_eq_true_eq, apply_ite BitVec.toNat, BitVec.toNat_not]

/-- The index is the upper part of the low 29 bits (40_cossin.md R113). -/
theorem lutIndex_toNat (v : Word) : (lutIndex v).toNat = v.toNat % 2 ^ 29 / 2 ^ 22 := by
  simp only [lutIndex, BitVec.extractLsb'_toNat, Nat.shiftRight_eq_div_pow]
  omega

/-- The residual is the lower part of the low 29 bits, centred (40_cossin.md R113). -/
theorem residual_eq (v : Word) : residual v = ((v.toNat % 2 ^ 29 % 2 ^ 22 : Nat) : Int) - 2 ^ 21 := by
  simp only [residual, BitVec.extractLsb'_toNat, Nat.shiftRight_eq_div_pow]
  omega

/-- The first-octant pair of r = v[28:0], in integers (40_cossin.md R113–R115). -/
theorem firstOctant_eq {v : Word} {r : Nat} (hr : v.toNat % 2 ^ 29 = r) :
    firstOctant v =
      let e := cosSinTable.getD (r / 2 ^ 22) (0, 0)
      let dq : Int := (((r % 2 ^ 22 : Nat) : Int) - 2 ^ 21) * 51472 / 2 ^ 15
      ((e.1 : Int) * 8192 - (e.2 : Int) * dq / 2 ^ 17, (e.2 : Int) * 8192 + (e.1 : Int) * dq / 2 ^ 17) := by
  subst hr
  rw [← lutIndex_toNat, ← lutRead_toNat, ← residual_eq]
  rfl

/-- The first-octant pair reads no bit above the low 29. -/
theorem firstOctant_congr {v w : Word} (h : v.toNat % 2 ^ 29 = w.toNat % 2 ^ 29) :
    firstOctant v = firstOctant w := by
  rw [firstOctant_eq h, firstOctant_eq rfl]

/-- The eight octants, so that a proof can take them one by one. -/
theorem octant_cases (o : BitVec 3) :
    o = 0#3 ∨ o = 1#3 ∨ o = 2#3 ∨ o = 3#3 ∨ o = 4#3 ∨ o = 5#3 ∨ o = 6#3 ∨ o = 7#3 := by
  revert o
  decide

/-- The octant table of the unfold (40_cossin.md R116). -/
theorem unfoldOctant_table (c s : Int) :
    unfoldOctant 0#3 (c, s) = (c, s) ∧ unfoldOctant 1#3 (c, s) = (s, c) ∧
    unfoldOctant 2#3 (c, s) = (-s, c) ∧ unfoldOctant 3#3 (c, s) = (-c, s) ∧
    unfoldOctant 4#3 (c, s) = (-c, -s) ∧ unfoldOctant 5#3 (c, s) = (-s, -c) ∧
    unfoldOctant 6#3 (c, s) = (s, -c) ∧ unfoldOctant 7#3 (c, s) = (c, -s) :=
  ⟨rfl, rfl, rfl, rfl, rfl, rfl, rfl, rfl⟩

/-- COSSIN in terms of the exact pair of its phase (40_cossin.md R117). -/
theorem exec_cossin_of_pair {s : State} {cs : Int × Int} (h : cosSinInt s.arg0 = cs) :
    exec .cossin s = .next { s with
      status := { s.status with err := .ok }
      res0 := BitVec.ofInt 32 cs.1
      res1 := BitVec.ofInt 32 cs.2 } := by
  subst h
  rfl

/-! The corner cases of R117, run on the exact pair. -/

theorem cosSinInt_zero : cosSinInt 0 = (1073743736, -999) := by decide +kernel
theorem cosSinInt_at_halfTurn : cosSinInt 0x80000000 = (-1073743736, 999) := by decide +kernel
theorem cosSinInt_at_quarterTurn : cosSinInt 0x40000000 = (999, 1073743736) := by decide +kernel

/-- Settles O17: the exact pair is read octant by octant from the Gray code, R117's examples are run. -/
theorem cossinInterpolatesTheTable : Obligations.CossinInterpolatesTheTable := by
  refine ⟨fun s => ?_, fun s => ⟨?_, ?_, ?_⟩⟩
  · intro p o r e d dq c1 s1 out
    have hfirst : firstOctant (foldPhase s.arg0) = (c1, s1) :=
      firstOctant_eq (congrArg (· % 2 ^ 29) (foldPhase_toNat s.arg0))
    have hindex : r / 2 ^ 22 < cosSinTable.length := by
      have hr : r < 2 ^ 29 := Nat.mod_lt _ (by decide)
      rw [cosSinTable_length]
      omega
    have hout : cosSinInt s.arg0 = out := by
      have ho : o = (octant s.arg0).toNat := (octant_toNat s.arg0).symm
      rw [cosSinInt, hfirst]
      simp only [out, ho]
      obtain h | h | h | h | h | h | h | h := octant_cases (octant s.arg0) <;>
        simp [h, unfoldOctant_table]
    exact ⟨hindex, exec_cossin_of_pair hout⟩
  · exact exec_cossin_of_pair (cs := (1073743736, -999)) cosSinInt_zero
  · exact exec_cossin_of_pair (cs := (-1073743736, 999)) cosSinInt_at_halfTurn
  · exact exec_cossin_of_pair (cs := (999, 1073743736)) cosSinInt_at_quarterTurn


end Sys2Proof.Machine
end

section
/-! SUPPORT. The symmetries of COSSIN on exact pairs (40_cossin.md R119): a quarter turn adds 2 to the octant,
the complement reverses it, and neither moves the first-octant pair. -/

namespace Sys2Proof.Machine

/-- Two octants further the pair is rotated by a right angle. -/
theorem unfoldOctant_add_two (o : BitVec 3) (cs : Int × Int) :
    unfoldOctant (o + 2#3) cs = (-(unfoldOctant o cs).2, (unfoldOctant o cs).1) := by
  obtain ⟨c, s⟩ := cs
  obtain rfl | rfl | rfl | rfl | rfl | rfl | rfl | rfl := octant_cases o <;> simp [unfoldOctant_table]

/-- In the mirrored octant the pair is conjugate. -/
theorem unfoldOctant_not (o : BitVec 3) (cs : Int × Int) :
    unfoldOctant (~~~o) cs = ((unfoldOctant o cs).1, -(unfoldOctant o cs).2) := by
  obtain ⟨c, s⟩ := cs
  obtain rfl | rfl | rfl | rfl | rfl | rfl | rfl | rfl := octant_cases o <;> simp [unfoldOctant_table]

theorem toNat_quarterTurn (p : Word) : (p + 0x40000000).toNat = (p.toNat + 2 ^ 30) % 2 ^ 32 := by
  have hquarter : (0x40000000 : Word).toNat = 2 ^ 30 := by decide
  rw [BitVec.toNat_add, hquarter]

theorem octant_quarterTurn (p : Word) : octant (p + 0x40000000) = octant p + 2#3 := by
  apply BitVec.eq_of_toNat_eq
  rw [BitVec.toNat_add, octant_toNat, octant_toNat, toNat_quarterTurn, BitVec.toNat_ofNat]
  omega

theorem octant_not (p : Word) : octant (~~~p) = ~~~octant p := by
  apply BitVec.eq_of_toNat_eq
  rw [octant_toNat, BitVec.toNat_not, BitVec.toNat_not, octant_toNat]
  omega

/-- A quarter turn leaves the octant's parity and the low 29 bits. -/
theorem firstOctant_foldPhase_quarterTurn (p : Word) :
    firstOctant (foldPhase (p + 0x40000000)) = firstOctant (foldPhase p) := by
  apply firstOctant_congr
  rw [foldPhase_toNat, foldPhase_toNat, toNat_quarterTurn]
  split <;> split <;> omega

/-- A phase and its complement fold to one word, for their octants differ in parity. -/
theorem foldPhase_not (p : Word) : foldPhase (~~~p) = foldPhase p := by
  apply BitVec.eq_of_toNat_eq
  rw [foldPhase_toNat, foldPhase_toNat, BitVec.toNat_not]
  split <;> split <;> omega

theorem cosSinInt_add_quarterTurn (p : Word) :
    cosSinInt (p + 0x40000000) = (-(cosSinInt p).2, (cosSinInt p).1) := by
  rw [cosSinInt, octant_quarterTurn, firstOctant_foldPhase_quarterTurn, unfoldOctant_add_two, cosSinInt]

/-- A half turn is two quarter turns. -/
theorem cosSinInt_add_halfTurn (p : Word) :
    cosSinInt (p + 0x80000000) = (-(cosSinInt p).1, -(cosSinInt p).2) := by
  have h : p + 0x80000000 = p + 0x40000000 + 0x40000000 := by rw [BitVec.add_assoc]; rfl
  rw [h, cosSinInt_add_quarterTurn, cosSinInt_add_quarterTurn]

theorem cosSinInt_not (p : Word) : cosSinInt (~~~p) = ((cosSinInt p).1, -(cosSinInt p).2) := by
  rw [cosSinInt, octant_not, foldPhase_not, unfoldOctant_not, cosSinInt]

/-- What COSSIN leaves in the result registers (40_cossin.md R117). -/
theorem exec_cossin_results {s t : State} (h : exec .cossin s = .next t) :
    t.res0 = cosOut s.arg0 ∧ t.res1 = sinOut s.arg0 := by
  obtain rfl := Host.Outcome.next.inj h
  exact ⟨rfl, rfl⟩

/-- Settles O20: the laws of the exact pair, and the i32 of a negated value is the negated i32. -/
theorem cossinSymmetryLaws : Obligations.CossinSymmetryLaws := by
  intro s t q h n p ht hq hh hn
  obtain ⟨ht0, ht1⟩ := exec_cossin_results ht
  obtain ⟨hq0, hq1⟩ := exec_cossin_results hq
  obtain ⟨hh0, hh1⟩ := exec_cossin_results hh
  obtain ⟨hn0, hn1⟩ := exec_cossin_results hn
  simp only [ht0, ht1, hq0, hq1, hh0, hh1, hn0, hn1, cosOut, sinOut, cosSinInt_add_quarterTurn,
    cosSinInt_add_halfTurn, cosSinInt_not, BitVec.ofInt_neg, and_self]

end Sys2Proof.Machine
end

section
/-! SUPPORT. The bounds of the outputs (40_cossin.md R118): the first-octant pair is monotone in the phase
delta, so both ends of the delta's range bound it. -/

namespace Sys2Proof.Machine

theorem asr_mono {a b : Int} (h : a ≤ b) (n : Nat) : asr a n ≤ asr b n :=
  Int.ediv_le_ediv (by positivity) h

theorem interpCos_antitone (c s : BitVec 17) {a b : Int} (h : a ≤ b) : interpCos c s b ≤ interpCos c s a :=
  Int.sub_le_sub_left (asr_mono (Int.mul_le_mul_of_nonneg_left h (by positivity)) 17) _

theorem interpSin_monotone (c s : BitVec 17) {a b : Int} (h : a ≤ b) : interpSin c s a ≤ interpSin c s b :=
  Int.add_le_add_left (asr_mono (Int.mul_le_mul_of_nonneg_left h (by positivity)) 17) _

/-- The phase delta runs from the delta of d = −2^21 to that of d = 2^21 − 1. -/
theorem phaseDelta_residual_bounds (v : Word) :
    -3294208 ≤ phaseDelta (residual v) ∧ phaseDelta (residual v) ≤ 3294206 := by
  simp only [phaseDelta, asr, pi4, residual_eq]
  omega

/-- R118's 128 × 2 endpoint cases. -/
theorem interp_bounds_at_ends (i : BitVec 7) :
    -999 ≤ interpCos (lutRead i).1 (lutRead i).2 3294206 ∧
    interpCos (lutRead i).1 (lutRead i).2 (-3294208) ≤ 1073743736 ∧
    -999 ≤ interpSin (lutRead i).1 (lutRead i).2 (-3294208) ∧
    interpSin (lutRead i).1 (lutRead i).2 3294206 ≤ 1073743736 := by
  revert i
  decide +kernel

/-- The first-octant pair lies between its values at the ends of the delta's range. -/
theorem firstOctant_bounds (v : Word) :
    -999 ≤ (firstOctant v).1 ∧ (firstOctant v).1 ≤ 1073743736 ∧
    -999 ≤ (firstOctant v).2 ∧ (firstOctant v).2 ≤ 1073743736 := by
  obtain ⟨hlo, hhi⟩ := phaseDelta_residual_bounds v
  obtain ⟨hcmin, hcmax, hsmin, hsmax⟩ := interp_bounds_at_ends (lutIndex v)
  exact ⟨hcmin.trans (interpCos_antitone _ _ hhi), (interpCos_antitone _ _ hlo).trans hcmax,
    hsmin.trans (interpSin_monotone _ _ hlo), (interpSin_monotone _ _ hhi).trans hsmax⟩

/-- The unfold swaps and negates, so it keeps a bound on both magnitudes (40_cossin.md R116). -/
theorem unfoldOctant_abs_le {b : Int} (o : BitVec 3) {cs : Int × Int} (hc : |cs.1| ≤ b) (hs : |cs.2| ≤ b) :
    |(unfoldOctant o cs).1| ≤ b ∧ |(unfoldOctant o cs).2| ≤ b := by
  obtain ⟨c, s⟩ := cs
  obtain rfl | rfl | rfl | rfl | rfl | rfl | rfl | rfl := octant_cases o <;>
    simp [unfoldOctant_table, hc, hs]

theorem cosSinInt_abs_le (p : Word) : |(cosSinInt p).1| ≤ 1073743736 ∧ |(cosSinInt p).2| ≤ 1073743736 := by
  obtain ⟨hcmin, hcmax, hsmin, hsmax⟩ := firstOctant_bounds (foldPhase p)
  exact unfoldOctant_abs_le _ (abs_le.2 ⟨by omega, hcmax⟩) (abs_le.2 ⟨by omega, hsmax⟩)

/-- Within the bound of R118 the i32 holds the exact value. -/
theorem toInt_ofInt_of_abs_le {x : Int} (h : |x| ≤ 1073743736) : (BitVec.ofInt 32 x).toInt = x := by
  obtain ⟨hlo, hhi⟩ := abs_le.1 h
  exact BitVec.toInt_ofInt_eq_self (by decide) (by omega) (by omega)

theorem cosOut_toInt (p : Word) : (cosOut p).toInt = (cosSinInt p).1 :=
  toInt_ofInt_of_abs_le (cosSinInt_abs_le p).1

theorem sinOut_toInt (p : Word) : (sinOut p).toInt = (cosSinInt p).2 :=
  toInt_ofInt_of_abs_le (cosSinInt_abs_le p).2

/-- Settles O19: the bound of the first-octant pair carries through the unfold to the i32 results. -/
theorem cossinOutputsAreBounded : Obligations.CossinOutputsAreBounded := by
  refine ⟨fun s t h => ?_, firstOctant_bounds, by decide +kernel, fun i a b hab => ?_⟩
  · obtain ⟨h0, h1⟩ := exec_cossin_results h
    obtain ⟨hc, hs⟩ := cosSinInt_abs_le s.arg0
    rw [h0, h1, cosOut_toInt, sinOut_toInt]
    exact ⟨(abs_le.1 hc).1, (abs_le.1 hc).2, (abs_le.1 hs).1, (abs_le.1 hs).2⟩
  · exact ⟨interpCos_antitone _ _ hab, interpSin_monotone _ _ hab⟩

end Sys2Proof.Machine
end

section
/-! SUPPORT. Sums over phases (40_cossin.md R120): a function that a half turn negates cancels in pairs. -/

namespace Sys2Proof.Machine

/-- A half turn negates the function. -/
def HalfTurnOdd (f : Word → Int) : Prop := ∀ p, f (p + 0x80000000) = -f p

theorem halfTurnOdd_cosOut : HalfTurnOdd fun p => (cosOut p).toInt := by
  intro p
  simp only [cosOut_toInt, cosSinInt_add_halfTurn]

theorem halfTurnOdd_sinOut : HalfTurnOdd fun p => (sinOut p).toInt := by
  intro p
  simp only [sinOut_toInt, cosSinInt_add_halfTurn]

/-- Two half turns are none. -/
theorem halfTurn_halfTurn (p : Word) : p + 0x80000000 + 0x80000000 = p := by
  rw [BitVec.add_assoc]
  exact BitVec.add_zero p

/-- A half turn moves every phase. -/
theorem halfTurn_ne (p : Word) : p + 0x80000000 ≠ p := by
  simp

/-- Over a set closed under the half turn each phase cancels with its opposite. -/
theorem HalfTurnOdd.sum_eq_zero {f : Word → Int} (hf : HalfTurnOdd f) (S : Finset Word)
    (hS : ∀ p ∈ S, p + 0x80000000 ∈ S) : ∑ p ∈ S, f p = 0 :=
  Finset.sum_involution (fun p _ => p + 0x80000000) (fun p _ => by rw [hf p, add_neg_cancel])
    (fun p _ _ => halfTurn_ne p) hS (fun p _ => halfTurn_halfTurn p)

/-- In an even sweep the place 2^m further on is half a turn away. -/
theorem sweep_halfTurn {m : Nat} (hm : m < 32) (j : Nat) :
    BitVec.ofNat 32 ((2 ^ m + j) * 2 ^ (32 - (m + 1))) =
      BitVec.ofNat 32 (j * 2 ^ (32 - (m + 1))) + 0x80000000 := by
  have hpow : 2 ^ m * 2 ^ (32 - (m + 1)) = 2 ^ 31 := by
    rw [← Nat.pow_add]
    congr 1
    omega
  rw [Nat.add_mul, hpow, BitVec.ofNat_add, BitVec.add_comm]
  rfl

/-- The second half of an even sweep cancels the first. -/
theorem HalfTurnOdd.sum_sweep_eq_zero {f : Word → Int} (hf : HalfTurnOdd f) {k : Nat} (h1 : 1 ≤ k)
    (h32 : k ≤ 32) : ∑ j ∈ Finset.range (2 ^ k), f (BitVec.ofNat 32 (j * 2 ^ (32 - k))) = 0 := by
  obtain ⟨m, rfl⟩ := Nat.exists_eq_add_of_le' h1
  have hhalves : 2 ^ (m + 1) = 2 ^ m + 2 ^ m := by omega
  rw [hhalves, Finset.sum_range_add]
  simp only [sweep_halfTurn h32, hf _, Finset.sum_neg_distrib, add_neg_cancel]

/-- Settles O21: a half turn negates both outputs. -/
theorem cossinSumsToZero : Obligations.CossinSumsToZero :=
  ⟨fun S hS => ⟨halfTurnOdd_cosOut.sum_eq_zero S hS, halfTurnOdd_sinOut.sum_eq_zero S hS⟩,
    fun _ h1 h32 => ⟨halfTurnOdd_cosOut.sum_sweep_eq_zero h1 h32, halfTurnOdd_sinOut.sum_sweep_eq_zero h1 h32⟩⟩

end Sys2Proof.Machine
end

section
/-! SUPPORT. Rounding of magnitudes is to nearest, ties to even (41_biquad_iir.md R131): `roundHalfEven` picks
the nearest multiple of a step, and the steps of a binade are the grid that every higher magnitude lies on. -/

namespace Sys2Proof.Machine

/-- x is at least as near to n / d as y, and `even` holds if y is another value just as near. -/
def BeatsOrTies (even : Prop) (x y n d : Int) : Prop :=
  |x * d - n| ≤ |y * d - n| ∧ (|x * d - n| = |y * d - n| → y ≠ x → even)

/-- What is rounded by half a unit, up or down, is rounded to an even number. -/
theorem roundHalfEven_even_of_tie {n d : Nat} (hd : 0 < d)
    (h : 2 * n = (2 * roundHalfEven n d + 1) * d ∨ 2 * (roundHalfEven n d * d) = 2 * n + d) :
    roundHalfEven n d % 2 = 0 := by
  have hn := Nat.div_add_mod n d
  have hr := Nat.mod_lt n hd
  revert h
  unfold roundHalfEven
  dsimp only
  generalize n / d = q at *
  generalize n % d = r at *
  subst hn
  intro h
  split at h
  · rcases h with h | h <;> nlinarith
  · split at h
    · rcases h with h | h <;> nlinarith
    · rw [if_neg ‹_›, if_neg ‹_›]
      omega

/-- A step of e makes x steps the value x · e. -/
theorem BeatsOrTies.scale {even : Prop} {x y n d e : Int} (he : e ≠ 0) (h : BeatsOrTies even x y n (d * e)) :
    BeatsOrTies even (x * e) (y * e) n d := by
  have hassoc : ∀ z : Int, z * e * d = z * (d * e) := fun z => by ring
  simp only [BeatsOrTies, hassoc, ne_eq, mul_left_inj' he]
  exact h

/-- `roundHalfEven` finds the nearest whole number, the even one at a tie. -/
theorem roundHalfEven_beats (n : Nat) {d : Nat} (hd : 0 < d) (j : Nat) :
    BeatsOrTies (roundHalfEven n d % 2 = 0) (roundHalfEven n d) j n d := by
  obtain ⟨hlo, hhi⟩ := roundHalfEven_near n hd
  have htie := roundHalfEven_even_of_tie (n := n) hd
  generalize roundHalfEven n d = m at *
  zify at hlo hhi hd
  have hnear : 2 * |(m : Int) * d - n| ≤ d := by
    rcases abs_cases ((m : Int) * d - n) with ⟨h, -⟩ | ⟨h, -⟩ <;> rw [h] <;> linarith
  by_cases hj : (j : Int) = m
  · exact hj ▸ ⟨le_rfl, fun _ h => absurd rfl h⟩
  have hfar : (d : Int) ≤ |(m : Int) * d - n| + |(j : Int) * d - n| :=
    calc (d : Int) ≤ |(m : Int) - j| * d := le_mul_of_one_le_left hd.le (Int.one_le_abs (by omega))
      _ = |((m : Int) * d - n) - (j * d - n)| := by
        rw [← abs_of_pos hd, ← abs_mul, abs_of_pos hd]
        ring_nf
      _ ≤ _ := abs_sub _ _
  refine ⟨by linarith, fun heq _ => htie ?_⟩
  have : 2 * |(m : Int) * d - n| = d := by linarith
  rcases abs_cases ((m : Int) * d - n) with ⟨h, -⟩ | ⟨h, -⟩ <;> rw [h] at this
  · exact .inr (by zify; linarith)
  · exact .inl (by zify; linarith)

/-- The binade's range: below 2^24 steps, and from 2^23 steps on beyond the lowest binade. -/
theorem binade_range (n : Nat) {d : Nat} (hd : 0 < d) :
    n < 2 ^ 24 * (d * 2 ^ binade n d) ∧ (binade n d = 0 ∨ 2 ^ 23 * (d * 2 ^ binade n d) ≤ n) := by
  have hlog : n / d < 2 ^ (24 + binade n d) :=
    Nat.lt_log2_self.trans_le (Nat.pow_le_pow_right (by decide) (by rw [binade]; omega))
  refine ⟨?_, ?_⟩
  · rw [Nat.div_lt_iff_lt_mul hd, pow_add] at hlog
    linarith
  · by_cases hk : binade n d = 0
    · exact .inl hk
    · have hq : n / d ≠ 0 := fun h => hk (by simp [binade, h])
      have hlog : 2 ^ (23 + binade n d) ≤ n / d := by
        have : 23 + binade n d = Nat.log2 (n / d) := by rw [binade] at *; omega
        exact this ▸ Nat.log2_self_le hq
      rw [Nat.le_div_iff_mul_le hd, pow_add] at hlog
      exact .inr (by linarith)

/-- The number of steps that `roundMag` rounds to. -/
def roundSteps (n d : Nat) : Nat := roundHalfEven n (d * 2 ^ binade n d)

theorem roundMag_eq (n d : Nat) :
    roundMag n d = if binade n d * 2 ^ 23 + roundSteps n d < 0x7F800000
      then BitVec.ofNat 32 (binade n d * 2 ^ 23 + roundSteps n d) else 0x7F800000 := rfl

/-- A binade is rounded to at most its end, and beyond the lowest binade at least to its start. -/
theorem roundSteps_range (n : Nat) {d : Nat} (hd : 0 < d) :
    roundSteps n d ≤ 2 ^ 24 ∧ (binade n d = 0 ∨ 2 ^ 23 ≤ roundSteps n d) := by
  obtain ⟨hlt, hge⟩ := binade_range n hd
  have hpos : 0 < d * 2 ^ binade n d := by positivity
  rw [← Nat.div_lt_iff_lt_mul hpos] at hlt
  rw [← Nat.le_div_iff_mul_le hpos] at hge
  rcases roundHalfEven_floor n (d * 2 ^ binade n d) with h | h <;> rw [roundSteps, h] <;> omega

/-- The pattern of m steps of binade k has the magnitude of m steps. -/
theorem fmag_ofNat_steps {k m : Nat} (hm : m ≤ 2 ^ 24) (hk : k = 0 ∨ 2 ^ 23 ≤ m)
    (hp : k * 2 ^ 23 + m < 0x7F800000) : fmag (BitVec.ofNat 32 (k * 2 ^ 23 + m)) = m * 2 ^ k := by
  have hp' : k * 2 ^ 23 + m < 2 ^ 32 := by omega
  rw [fmag, fexp_eq, ffrac_eq, BitVec.toNat_ofNat, Nat.mod_eq_of_lt hp']
  by_cases hsub : m < 2 ^ 23
  · obtain rfl : k = 0 := by omega
    rw [if_pos (by omega)]
    omega
  · by_cases hend : m = 2 ^ 24
    · rw [if_neg (by omega), hend, show (k * 2 ^ 23 + 2 ^ 24) % 2 ^ 23 = 0 by omega,
        show (k * 2 ^ 23 + 2 ^ 24) / 2 ^ 23 % 2 ^ 8 - 1 = k + 1 by omega]
      ring
    · rw [if_neg (by omega), show 2 ^ 23 + (k * 2 ^ 23 + m) % 2 ^ 23 = m by omega,
        show (k * 2 ^ 23 + m) / 2 ^ 23 % 2 ^ 8 - 1 = k by omega]

/-- From the binade's start on, every finite magnitude is a whole number of its steps. -/
theorem fmag_on_grid (q : Word) (k : Nat) : 2 ^ k ∣ fmag q ∨ fmag q < 2 ^ 23 * 2 ^ k := by
  have hf := ffrac_lt q
  have hpow : 0 < 2 ^ k := by positivity
  rw [fmag]
  split
  · exact .inr (by nlinarith)
  · by_cases hk : k ≤ fexp q - 1
    · exact .inl (Dvd.dvd.mul_left (pow_dvd_pow 2 hk) _)
    · have : 2 * 2 ^ (fexp q - 1) ≤ 2 ^ k := by
        rw [← pow_succ']
        exact Nat.pow_le_pow_right (by decide) (by omega)
      exact .inr (by nlinarith)

/-- No finite magnitude is nearer to n / d than the rounded steps, and at a tie the steps are even. -/
theorem roundSteps_beats (n : Nat) {d : Nat} (hd : 0 < d) (q : Word) :
    BeatsOrTies (roundSteps n d % 2 = 0) (roundSteps n d * 2 ^ binade n d : Nat) (fmag q) n d := by
  push_cast
  have hsteps : ∀ j : Nat,
      BeatsOrTies (roundSteps n d % 2 = 0) (roundSteps n d * 2 ^ binade n d) (j * 2 ^ binade n d) n d := by
    intro j
    have h := roundHalfEven_beats n (d := d * 2 ^ binade n d) (by positivity) j
    push_cast at h
    exact h.scale (by positivity)
  by_cases hdvd : 2 ^ binade n d ∣ fmag q
  · obtain ⟨j, hj⟩ := hdvd
    have hcast : (fmag q : Int) = j * 2 ^ binade n d := by rw [hj]; push_cast; ring
    exact hcast ▸ hsteps j
  · have hlow := (fmag_on_grid q (binade n d)).resolve_left hdvd
    have hk : binade n d ≠ 0 := fun h => hdvd (by simp [h])
    have hstart := (binade_range n hd).2.resolve_left hk
    have hbest := (hsteps (2 ^ 23)).1
    zify at hlow hstart hd
    push_cast at hbest
    have hfar : (fmag q : Int) * d < 2 ^ 23 * 2 ^ binade n d * d := Int.mul_lt_mul_of_pos_right hlow hd
    have hlt : |(roundSteps n d : Int) * 2 ^ binade n d * d - n| < |(fmag q : Int) * d - n| := by
      refine hbest.trans_lt ?_
      rw [abs_of_nonpos (by linarith), abs_of_nonpos (by linarith)]
      linarith
    exact ⟨hlt.le, fun h => absurd h hlt.ne⟩

/-- Rounding overflows from half a step past the greatest finite value on (log entry 9). -/
theorem roundMag_overflow_iff (n : Nat) {d : Nat} (hd : 0 < d) :
    0x7F800000 ≤ binade n d * 2 ^ 23 + roundSteps n d ↔ (2 ^ 25 - 1) * 2 ^ 252 * d ≤ n := by
  obtain ⟨hlt, hge⟩ := binade_range n hd
  obtain ⟨hmax, hmin⟩ := roundSteps_range n hd
  rcases Nat.lt_trichotomy (binade n d) 253 with hk | hk | hk
  · have hpow : 2 ^ binade n d ≤ 2 ^ 252 := Nat.pow_le_pow_right (by decide) (by omega)
    have : d * 2 ^ binade n d ≤ d * 2 ^ 252 := Nat.mul_le_mul_left d hpow
    constructor <;> intro h <;> omega
  · have hpos : 0 < d * 2 ^ 253 := by positivity
    obtain ⟨hlo, hhi⟩ := roundHalfEven_near n hpos
    have htie := roundHalfEven_even_of_tie (n := n) hpos
    have hsteps : roundHalfEven n (d * 2 ^ 253) = roundSteps n d := by rw [roundSteps, hk]
    rw [hsteps] at hlo hhi htie
    rw [hk]
    generalize roundSteps n d = m at *
    constructor
    · intro h
      obtain rfl : m = 2 ^ 24 := by omega
      omega
    · intro h
      by_contra hm
      have hle : (2 * m + 1) * (d * 2 ^ 253) ≤ (2 ^ 25 - 1) * (d * 2 ^ 253) :=
        Nat.mul_le_mul_right _ (by omega)
      have heven := htie (.inl (by omega))
      have hlt : (2 * m + 1) * (d * 2 ^ 253) < (2 ^ 25 - 1) * (d * 2 ^ 253) :=
        Nat.mul_lt_mul_of_pos_right (by omega) hpos
      omega
  · have hpow : 2 ^ 254 ≤ 2 ^ binade n d := Nat.pow_le_pow_right (by decide) hk
    have : d * 2 ^ 254 ≤ d * 2 ^ binade n d := Nat.mul_le_mul_left d hpow
    constructor <;> intro h <;> omega

end Sys2Proof.Machine
end

section
/-! SUPPORT. A sign mirrors the rounding of magnitudes (41_biquad_iir.md R131): a signed value has only the
values of its own sign to beat. -/

namespace Sys2Proof.Machine

@[simp] theorem fexp_withSign (neg : Bool) (a : Word) : fexp (withSign neg a) = fexp a := by
  cases neg
  · rfl
  · simp only [withSign, fexp, if_true, BitVec.extractLsb'_or]
    simp

@[simp] theorem ffrac_withSign (neg : Bool) (a : Word) : ffrac (withSign neg a) = ffrac a := by
  cases neg
  · rfl
  · simp only [withSign, ffrac, if_true, BitVec.extractLsb'_or]
    simp

@[simp] theorem isFin_withSign (neg : Bool) (a : Word) : isFin (withSign neg a) = isFin a := by simp [isFin]

theorem getLsbD_zero_withSign (neg : Bool) (a : Word) : (withSign neg a).getLsbD 0 = a.getLsbD 0 := by
  cases neg <;> simp [withSign]

/-- Changing all the signs changes no distance. -/
theorem BeatsOrTies.neg {even : Prop} {x y n d : Int} (h : BeatsOrTies even x (-y) n d) :
    BeatsOrTies even (-x) y (-n) d := by
  have hx : -x * d - -n = -(x * d - n) := by ring
  have hy : y * d - -n = -(-y * d - n) := by ring
  rw [BeatsOrTies, hx, hy, abs_neg, abs_neg]
  exact ⟨h.1, fun heq hne => h.2 heq fun hxy => hne (by rw [← hxy, neg_neg])⟩

/-- To a value that is not negative no negative one is nearer than its magnitude. -/
theorem BeatsOrTies.of_abs {even : Prop} {x y n d : Int} (hn : 0 ≤ n) (hd : 0 < d)
    (h0 : n = 0 → x = 0) (h : BeatsOrTies even x |y| n d) : BeatsOrTies even x y n d := by
  rcases le_or_gt 0 y with hy | hy
  · rwa [abs_of_nonneg hy] at h
  · rw [abs_of_neg hy] at h
    have hyd : y * d < 0 := mul_neg_of_neg_of_pos hy hd
    have habs : |y * d - n| = -(y * d) + n := by rw [abs_of_neg (by linarith)]; ring
    have hle : |-y * d - n| ≤ -(y * d) + n := by rw [abs_le]; constructor <;> linarith
    refine ⟨habs ▸ h.1.trans hle, fun heq _ => ?_⟩
    exfalso
    have hge : -(y * d) + n ≤ |-y * d - n| := by linarith [h.1]
    have hn0 : n = 0 := by
      rcases abs_cases (-y * d - n) with ⟨h, -⟩ | ⟨h, -⟩ <;> linarith
    simp only [h0 hn0, hn0, zero_mul, sub_zero, abs_zero] at heq
    exact hyd.ne (abs_eq_zero.1 heq.symm)

/-- A magnitude under a sign, in units. -/
def signed (neg : Bool) (m : Nat) : Int := if neg then -(m : Int) else m

theorem fval_eq_signed (a : Word) : fval a = signed (fsign a) (fmag a) := rfl

theorem fval_withSign {a : Word} (neg : Bool) (h : a.toNat < 2 ^ 31) :
    fval (withSign neg a) = signed neg (fmag a) := by
  rw [fval_eq_signed, fsign_withSign neg h, fmag_withSign neg h]

@[simp] theorem signed_zero (neg : Bool) : signed neg 0 = 0 := by cases neg <;> rfl

@[simp] theorem abs_signed (neg : Bool) (m : Nat) : |signed neg m| = m := by cases neg <;> simp [signed]

theorem abs_fval (a : Word) : |fval a| = fmag a := abs_signed _ _

/-- The sign of a product is the exclusive or of the signs. -/
theorem signed_mul (s t : Bool) (m n : Nat) : signed s m * signed t n = signed (s != t) (m * n) := by
  cases s <;> cases t <;> simp [signed]

theorem sign_signed (neg : Bool) {m : Nat} (hm : m ≠ 0) : (signed neg m).sign = signed neg 1 := by
  cases neg <;> simp [signed, Nat.pos_of_ne_zero hm]

theorem signed_neg_iff (neg : Bool) {m : Nat} (hm : m ≠ 0) : signed neg m < 0 ↔ neg = true := by
  cases neg <;> simp [signed, Nat.pos_of_ne_zero hm]

theorem signed_decide_natAbs (n : Int) : signed (decide (n < 0)) n.natAbs = n := by
  rcases lt_or_ge n 0 with h | h
  · simp [signed, h, abs_of_neg h]
  · simp [signed, not_lt.2 h, abs_of_nonneg h]

theorem BeatsOrTies.signed {even : Prop} {x n : Nat} {y d : Int} (neg : Bool) (hd : 0 < d)
    (h0 : n = 0 → x = 0) (h : BeatsOrTies even x |y| n d) :
    BeatsOrTies even (signed neg x) y (signed neg n) d := by
  have h0' : (n : Int) = 0 → (x : Int) = 0 := by exact_mod_cast h0
  cases neg with
  | false => exact h.of_abs (Int.natCast_nonneg n) hd h0'
  | true => exact (BeatsOrTies.of_abs (Int.natCast_nonneg n) hd h0' (by rwa [abs_neg])).neg

/-- Below the overflow the pattern is finite, has the magnitude of the steps, and is even as they are. -/
theorem roundMag_finite {n d : Nat} (hd : 0 < d) (hp : binade n d * 2 ^ 23 + roundSteps n d < 0x7F800000) :
    isFin (roundMag n d) = true ∧ fmag (roundMag n d) = roundSteps n d * 2 ^ binade n d ∧
      (roundSteps n d % 2 = 0 → (roundMag n d).getLsbD 0 = false) := by
  obtain ⟨hmax, hmin⟩ := roundSteps_range n hd
  rw [roundMag_eq, if_pos hp]
  refine ⟨?_, fmag_ofNat_steps hmax hmin hp, fun heven => ?_⟩
  · rw [isFin, fexp_eq, BitVec.toNat_ofNat, bne_iff_ne]
    omega
  · rw [BitVec.getLsbD_ofNat, Nat.testBit_zero]
    simp only [Bool.and_eq_false_iff, decide_eq_false_iff_not]
    omega

/-- The rounded magnitude of m / d under a sign is the signed value rounded. -/
theorem roundsTo_withSign (neg : Bool) (m : Nat) {d : Nat} (hd : 0 < d) :
    RoundsTo (withSign neg (roundMag m d)) (signed neg m) d := by
  have hover := roundMag_overflow_iff m hd
  by_cases hp : binade m d * 2 ^ 23 + roundSteps m d < 0x7F800000
  · obtain ⟨hfin, hmag, hlsb⟩ := roundMag_finite hd hp
    refine .inl ⟨by rw [isFin_withSign, hfin], ?_, fun q _ => ?_⟩
    · have hlt := not_le.1 (mt hover.2 (not_le.2 hp))
      zify at hlt
      rwa [abs_signed]
    · have h0 : m = 0 → fmag (roundMag m d) = 0 := by rintro rfl; rw [roundMag_zero]; rfl
      have hbeats := roundSteps_beats m hd q
      rw [← hmag, ← abs_fval q] at hbeats
      obtain ⟨hle, htie⟩ := hbeats.signed neg (Int.natCast_pos.2 hd) h0
      rw [← fval_withSign neg (roundMag_lt _ _)] at hle htie
      exact ⟨hle, fun heq hne => (getLsbD_zero_withSign _ _).trans (hlsb (htie heq hne))⟩
  · have hle := hover.1 (by omega)
    have hm : m ≠ 0 := by
      rintro rfl
      omega
    have hsign : decide (signed neg m < 0) = neg := by simp [signed_neg_iff neg hm]
    refine .inr ⟨by rw [hsign, roundMag_eq, if_neg hp, finf], ?_⟩
    zify at hle
    rwa [abs_signed]

end Sys2Proof.Machine
end

section
/-! SUPPORT. The operations on finite operands round their exact results (41_biquad_iir.md R131). -/

namespace Sys2Proof.Machine

theorem fadd_of_isFin {a b : Word} (ha : isFin a = true) (hb : isFin b = true) :
    fadd a b = if fval a + fval b = 0 then fzero (fsign a && fsign b)
      else withSign (decide (fval a + fval b < 0)) (roundMag (fval a + fval b).natAbs 1) := by
  simp [fadd, isNaN_of_isFin, isInf_of_isFin, ha, hb]

theorem fmul_of_isFin {a b : Word} (ha : isFin a = true) (hb : isFin b = true) :
    fmul a b = withSign (fsign a != fsign b) (roundMag (fmag a * fmag b) (2 ^ 149)) := by
  simp [fmul, isNaN_of_isFin, isInf_of_isFin, ha, hb]

theorem fdiv_of_isFin {a b : Word} (ha : isFin a = true) (hb : isFin b = true) (h0 : isZero b = false) :
    fdiv a b = withSign (fsign a != fsign b) (roundMag (fmag a * 2 ^ 149) (fmag b)) := by
  simp [fdiv, isNaN_of_isFin, isInf_of_isFin, ha, hb, h0]

/-- A magnitude is 0 for the two zeros alone. -/
theorem fmag_eq_zero_iff (a : Word) : fmag a = 0 ↔ isZero a = true := by
  rw [fmag, isZero]
  split <;> simp_all

/-- A vanishing sum has the zero of either sign for its value, any other rounds by `roundMag`. -/
theorem roundsTo_fadd {a b : Word} (ha : isFin a = true) (hb : isFin b = true) :
    RoundsTo (fadd a b) (fval a + fval b) 1 := by
  rw [fadd_of_isFin ha hb]
  split
  case isTrue h =>
    have hzero := roundsTo_withSign (fsign a && fsign b) 0 Nat.one_pos
    rwa [roundMag_zero, withSign_zero, signed_zero, ← h] at hzero
  case isFalse h =>
    have hsum := roundsTo_withSign (decide (fval a + fval b < 0)) (fval a + fval b).natAbs Nat.one_pos
    rwa [signed_decide_natAbs] at hsum

theorem roundsTo_fmul {a b : Word} (ha : isFin a = true) (hb : isFin b = true) :
    RoundsTo (fmul a b) (fval a * fval b) (2 ^ 149) := by
  rw [fmul_of_isFin ha hb, fval_eq_signed, fval_eq_signed, signed_mul]
  exact_mod_cast roundsTo_withSign (fsign a != fsign b) (fmag a * fmag b) (d := 2 ^ 149) (by positivity)

theorem roundsTo_fdiv {a b : Word} (ha : isFin a = true) (hb : isFin b = true) (h0 : isZero b = false) :
    RoundsTo (fdiv a b) (fval a * 2 ^ 149 * (fval b).sign) |fval b| := by
  have hmag : fmag b ≠ 0 := fun h => by simp [(fmag_eq_zero_iff b).1 h] at h0
  have hval : fval a * 2 ^ 149 * (fval b).sign = signed (fsign a != fsign b) (fmag a * 2 ^ 149) := by
    rw [fval_eq_signed b, sign_signed _ hmag, mul_right_comm, fval_eq_signed, signed_mul, mul_one]
    simp [signed]
  rw [fdiv_of_isFin ha hb h0, hval, abs_fval]
  exact roundsTo_withSign _ _ (Nat.pos_of_ne_zero hmag)

/-- Settles O22: each operation rounds its exact result by `roundMag`, which is to nearest, ties to even. -/
theorem arithmeticRoundsToNearestEven : Obligations.ArithmeticRoundsToNearestEven := by
  intro a b ha hb
  refine ⟨roundsTo_fadd ha hb, ?_, roundsTo_fmul ha hb, roundsTo_fdiv ha hb⟩
  rw [sub_eq_add_neg, ← fval_fneg]
  exact roundsTo_fadd ha ((isFin_fneg b).trans hb)

end Sys2Proof.Machine
end

section
/-! SUPPORT. The sign primitives as fields of a pattern, and the comparisons on values (41_biquad_iir.md R134). -/

namespace Sys2Proof.Machine

@[simp] theorem isNaN_withSign (neg : Bool) (a : Word) : isNaN (withSign neg a) = isNaN a := by simp [isNaN]

/-- A sign adds bit 31 to a magnitude pattern. -/
theorem withSign_toNat {a : Word} (neg : Bool) (h : a.toNat < 2 ^ 31) :
    (withSign neg a).toNat = neg.toNat * 2 ^ 31 + a.toNat := by
  cases neg with
  | false => simp [withSign]
  | true =>
    have hor : 2 ^ 31 ||| a.toNat = 2 ^ 31 * 1 + a.toNat := (Nat.two_pow_add_eq_or_of_lt h 1).symm
    rw [withSign, if_pos rfl, BitVec.toNat_or, Nat.or_comm]
    simpa using hor

theorem fabs_toNat (a : Word) : (fabs a).toNat = a.toNat % 2 ^ 31 := by
  rw [fabs, BitVec.toNat_and]
  exact Nat.and_two_pow_sub_one_eq_mod a.toNat 31

@[simp] theorem fexp_fabs (a : Word) : fexp (fabs a) = fexp a := by
  rw [fexp_eq, fexp_eq, fabs_toNat]
  omega

@[simp] theorem ffrac_fabs (a : Word) : ffrac (fabs a) = ffrac a := by
  rw [ffrac_eq, ffrac_eq, fabs_toNat]
  omega

@[simp] theorem fmag_fabs (a : Word) : fmag (fabs a) = fmag a := by simp [fmag]
@[simp] theorem isNaN_fabs (a : Word) : isNaN (fabs a) = isNaN a := by simp [isNaN]
@[simp] theorem isZero_fabs (a : Word) : isZero (fabs a) = isZero a := by simp [isZero]

theorem fabs_lt (a : Word) : (fabs a).toNat < 2 ^ 31 := by
  rw [fabs_toNat]
  exact Nat.mod_lt _ (by decide)

@[simp] theorem fval_fabs (a : Word) : fval (fabs a) = fmag a := by
  have hsign := fsign_withSign false (fabs_lt a)
  rw [withSign, if_neg (by decide)] at hsign
  simp [fval, hsign]

/-- Only bit 31 of the second operand is taken. -/
theorem fcopysign_eq_withSign (a b : Word) : fcopysign a b = withSign (fsign b) (fabs a) := by
  have hbit : b &&& 0x80000000 = if fsign b then 0x80000000#32 else 0 := BitVec.and_twoPow b 31
  rw [fcopysign, hbit, withSign, fabs]
  cases fsign b
  · exact BitVec.or_zero
  · rfl

theorem fcopysign_self (a : Word) : fcopysign a a = a := by
  rw [fcopysign, ← BitVec.and_or_distrib_left]
  exact BitVec.and_allOnes

/-- A pattern is its magnitude under its sign. -/
theorem withSign_fabs (a : Word) : withSign (fsign a) (fabs a) = a := by
  rw [← fcopysign_eq_withSign, fcopysign_self]

theorem fcopysign_toNat (a b : Word) :
    (fcopysign a b).toNat = b.toNat / 2 ^ 31 * 2 ^ 31 + a.toNat % 2 ^ 31 := by
  have hb := b.isLt
  rw [fcopysign_eq_withSign, withSign_toNat _ (fabs_lt a), fabs_toNat, fsign_eq]
  rcases lt_or_ge b.toNat (2 ^ 31) with h | h
  · rw [decide_eq_false (by omega), Bool.toNat_false]
    omega
  · rw [decide_eq_true h, Bool.toNat_true]
    omega

/-- The epsilon test reads the magnitude; 2^-23 is 2^126 units. -/
theorem small_iff (v : Word) : small v = true ↔ isNaN v = false ∧ |fval v| < 2 ^ 126 := by
  have heps : isNaN epsWord = false ∧ fval epsWord = 2 ^ 126 := by decide +kernel
  simp [small, flt, heps, abs_fval]

/-- Comparison on values. -/
theorem flt_iff {a b : Word} (ha : isNaN a = false) (hb : isNaN b = false) :
    flt a b = true ↔ fval a < fval b := by
  simp [flt, ha, hb]

theorem fgt_iff {a b : Word} (ha : isNaN a = false) (hb : isNaN b = false) :
    fgt a b = true ↔ fval b < fval a := by
  rw [fgt_eq_flt, flt_iff hb ha]

/-- Settles O25: the sign primitives as numbers, the comparisons on values, and the edges run. -/
theorem signsComparisonsAndEpsilon : Obligations.SignsComparisonsAndEpsilon := by
  refine ⟨fabs_toNat, fcopysign_toNat, ?_, fun a b ha hb => ⟨flt_iff ha hb, fgt_iff ha hb⟩,
    by decide +kernel, small_iff, by decide +kernel⟩
  rintro a b (h | h)
  · exact ⟨flt_nan_left h b, (fgt_eq_flt a b).trans (flt_nan_right h b)⟩
  · exact ⟨flt_nan_right h a, (fgt_eq_flt a b).trans (flt_nan_left h a)⟩

end Sys2Proof.Machine
end

section
/-! SUPPORT. The operations outside the rounding: NaNs, infinities and zeros, one equation per case
(41_biquad_iir.md R131, R133; log entry 9). -/

namespace Sys2Proof.Machine

/-! ### What an operation can give: the canonical NaN or no NaN -/

theorem roundMag_le (n d : Nat) : (roundMag n d).toNat ≤ 0x7F800000 := by
  rw [roundMag_eq]
  split
  · rw [BitVec.toNat_ofNat]
    omega
  · decide

/-- A pattern up to that of ∞ is no NaN. -/
theorem isNaN_of_le {m : Word} (h : m.toNat ≤ 0x7F800000) : isNaN m = false := by
  rw [isNaN, fexp_eq, ffrac_eq]
  simp only [Bool.and_eq_false_iff, beq_eq_false_iff_ne, bne_eq_false_iff_eq]
  omega

@[simp] theorem isNaN_roundMag (n d : Nat) : isNaN (roundMag n d) = false := isNaN_of_le (roundMag_le n d)

@[simp] theorem fsign_withSign_roundMag (neg : Bool) (n d : Nat) :
    fsign (withSign neg (roundMag n d)) = neg :=
  fsign_withSign neg (roundMag_lt n d)

theorem fadd_cases (a b : Word) : fadd a b = qNaN ∨ isNaN (fadd a b) = false := by
  rw [fadd]
  split
  · exact .inl rfl
  next hnan =>
    simp only [Bool.or_eq_true, not_or, Bool.not_eq_true] at hnan
    split
    · split
      · exact .inl rfl
      · exact .inr hnan.1
    · split
      · exact .inr hnan.2
      · dsimp only
        split <;> simp

/-- A product is the canonical NaN, or no NaN and has the exclusive or of the signs. -/
theorem fmul_cases (a b : Word) :
    fmul a b = qNaN ∨ isNaN (fmul a b) = false ∧ fsign (fmul a b) = (fsign a != fsign b) := by
  rw [fmul]
  split
  · exact .inl rfl
  · split
    · split
      · exact .inl rfl
      · simp
    · simp

/-- A quotient is the canonical NaN, or no NaN and has the exclusive or of the signs. -/
theorem fdiv_cases (a b : Word) :
    fdiv a b = qNaN ∨ isNaN (fdiv a b) = false ∧ fsign (fdiv a b) = (fsign a != fsign b) := by
  rw [fdiv]
  split
  · exact .inl rfl
  · split
    · split
      · exact .inl rfl
      · simp
    · split
      · simp
      · split
        · split
          · exact .inl rfl
          · simp
        · simp

/-! ### NaN operands -/

theorem fadd_nan {a b : Word} (h : isNaN a = true ∨ isNaN b = true) : fadd a b = qNaN :=
  h.elim (fadd_nan_left · b) (fadd_nan_right · a)

theorem fmul_nan {a b : Word} (h : isNaN a = true ∨ isNaN b = true) : fmul a b = qNaN :=
  h.elim (fmul_nan_left · b) (fmul_nan_right · a)

theorem fdiv_nan {a b : Word} (h : isNaN a = true ∨ isNaN b = true) : fdiv a b = qNaN :=
  h.elim (fdiv_nan_left · b) (fdiv_nan_right · a)

theorem fsub_nan {a b : Word} (h : isNaN a = true ∨ isNaN b = true) : fsub a b = qNaN :=
  fadd_nan (h.imp_right (isNaN_fneg b).trans)

/-! ### An infinity and a finite value -/

section finite

variable {a : Word} (ha : isFin a = true) (m : Bool)
include ha

theorem fadd_finf_right : fadd a (finf m) = finf m := by
  simp [fadd, isNaN_of_isFin ha, isInf_of_isFin ha]

theorem fadd_finf_left : fadd (finf m) a = finf m := by
  simp [fadd, isNaN_of_isFin ha, isInf_of_isFin ha]

theorem fsub_finf_right : fsub a (finf m) = finf (!m) := by
  rw [fsub, fneg_finf, fadd_finf_right ha]

theorem fsub_finf_left : fsub (finf m) a = finf m :=
  fadd_finf_left ((isFin_fneg a).trans ha) m

theorem fdiv_finf_right : fdiv a (finf m) = fzero (fsign a != m) := by
  simp [fdiv, isNaN_of_isFin ha, isInf_of_isFin ha]

theorem fdiv_finf_left : fdiv (finf m) a = finf (m != fsign a) := by
  simp [fdiv, isNaN_of_isFin ha, isInf_of_isFin ha]

theorem fmul_finf_right (h0 : isZero a = false) : fmul a (finf m) = finf (fsign a != m) := by
  simp [fmul, isNaN_of_isFin ha, h0]

theorem fmul_finf_left (h0 : isZero a = false) : fmul (finf m) a = finf (m != fsign a) := by
  simp [fmul, isNaN_of_isFin ha, h0]

/-! ### A zero and a finite value -/

theorem fmul_fzero_right : fmul a (fzero m) = fzero (fsign a != m) := by
  simp [fmul, isNaN_of_isFin ha, isInf_of_isFin ha]

theorem fmul_fzero_left : fmul (fzero m) a = fzero (m != fsign a) := by
  simp [fmul, isNaN_of_isFin ha, isInf_of_isFin ha]

theorem fdiv_fzero_right (h0 : isZero a = false) : fdiv a (fzero m) = finf (fsign a != m) := by
  simp [fdiv, isNaN_of_isFin ha, isInf_of_isFin ha, h0]

theorem fdiv_fzero_left (h0 : isZero a = false) : fdiv (fzero m) a = fzero (m != fsign a) := by
  simp [fdiv, isNaN_of_isFin ha, isInf_of_isFin ha, h0]

end finite

/-! ### Sums that vanish -/

theorem fadd_vanishing {a b : Word} (ha : isFin a = true) (hb : isFin b = true) (h : fval a + fval b = 0) :
    fadd a b = fzero (fsign a && fsign b) := by
  rw [fadd_of_isFin ha hb, if_pos h]

theorem fsub_vanishing {a b : Word} (ha : isFin a = true) (hb : isFin b = true) (h : fval a = fval b) :
    fsub a b = fzero (fsign a && !fsign b) := by
  rw [fsub, fadd_vanishing ha ((isFin_fneg b).trans hb) (by rw [fval_fneg]; omega), fsign_fneg]

/-- Settles O23: one equation per case; the sign of a result that is no NaN is read from `fmul_cases` and
`fdiv_cases`. -/
theorem arithmeticSpecialCases : Obligations.ArithmeticSpecialCases := by
  refine ⟨fun a b h => ?_, by decide +kernel, fun a m ha => ?_, fun a b ha hb => ?_, fun a b _ _ => ?_⟩
  · rw [fadd_nan h, fsub_nan h, fmul_nan h, fdiv_nan h]
    simp
  · exact ⟨fadd_finf_right ha m, fadd_finf_left ha m, fsub_finf_right ha m, fsub_finf_left ha m,
      fdiv_finf_right ha m, fdiv_finf_left ha m, fmul_fzero_right ha m, fmul_fzero_left ha m, fun h0 =>
      ⟨fmul_finf_right ha m h0, fmul_finf_left ha m h0, fdiv_fzero_right ha m h0, fdiv_fzero_left ha m h0⟩⟩
  · refine ⟨fadd_vanishing ha hb, fsub_vanishing ha hb, ?_⟩
    rw [fsub_vanishing ha ha rfl, Bool.and_not_self]
    rfl
  · refine ⟨fun h => ?_, fun h => ?_⟩
    · obtain hq | ⟨-, hs⟩ := fmul_cases a b
      · simp [hq] at h
      · exact hs
    · obtain hq | ⟨-, hs⟩ := fdiv_cases a b
      · simp [hq] at h
      · exact hs

end Sys2Proof.Machine
end

section
/-! SUPPORT. The clamp (41_biquad_iir.md R137), one equation per order of the value and its bounds. -/

namespace Sys2Proof.Machine

theorem clamp_cases (lo hi y : Word) : clamp lo hi y = y ∨ clamp lo hi y = lo ∨ clamp lo hi y = hi := by
  simp only [clamp]
  cases fgt y hi <;> cases flt _ lo <;> simp

/-- No comparison holds of a NaN, so it passes any bounds. -/
theorem clamp_nan {y : Word} (h : isNaN y = true) (lo hi : Word) : clamp lo hi y = y := by
  simp [clamp, fgt_eq_flt, flt_nan_left h, flt_nan_right h]

theorem clamp_of_not_fgt {hi y : Word} (h : fgt y hi = false) (lo : Word) :
    clamp lo hi y = if flt y lo then lo else y := by
  simp [clamp, h]

theorem clamp_of_not_flt {lo y : Word} (h : flt y lo = false) {hi : Word} (h' : flt hi lo = false) :
    clamp lo hi y = if fgt y hi then hi else y := by
  simp only [clamp]
  cases fgt y hi <;> simp [h, h']

theorem clamp_inside {lo hi y : Word} (h : flt y lo = false) (h' : fgt y hi = false) : clamp lo hi y = y := by
  simp [clamp, h, h']

/-- Between a lower and a higher value every value is above the one or below the other. -/
theorem flt_cotrans {a b c : Word} (hb : isNaN b = false) (h : flt a c = true) :
    flt a b = true ∨ flt b c = true := by
  simp only [flt, hb, Bool.and_eq_true, Bool.not_eq_true', decide_eq_true_eq] at h ⊢
  obtain ⟨⟨ha, hc⟩, hac⟩ := h
  rcases lt_or_ge (fval a) (fval b) with hab | hba
  · exact .inl ⟨⟨ha, trivial⟩, hab⟩
  · exact .inr ⟨⟨trivial, hc⟩, by omega⟩

theorem clamp_inverted {lo hi y : Word} (hy : isNaN y = false) (h : flt hi lo = true) : clamp lo hi y = lo := by
  cases hgt : flt hi y with
  | true => simp [clamp, fgt_eq_flt, hgt, h]
  | false =>
    have hlt : flt y lo = true := (flt_cotrans hy h).resolve_left (by simp [hgt])
    simp [clamp, fgt_eq_flt, hgt, hlt]

/-- Under ordered bounds the clamp is the ordinary one on values. -/
theorem fval_clamp {lo hi y : Word} (hy : isNaN y = false) (hlo : isNaN lo = false) (hhi : isNaN hi = false)
    (h : fval lo ≤ fval hi) : fval (clamp lo hi y) = max (fval lo) (min (fval y) (fval hi)) := by
  simp only [clamp]
  by_cases hgt : fgt y hi = true
  · rw [if_pos hgt, if_neg (mt (flt_iff hhi hlo).1 (by omega))]
    have := (fgt_iff hy hhi).1 hgt
    omega
  · rw [if_neg hgt]
    have := mt (fgt_iff hy hhi).2 hgt
    by_cases hlt : flt y lo = true
    · have := (flt_iff hy hlo).1 hlt
      rw [if_pos hlt]
      omega
    · have := mt (flt_iff hy hlo).2 hlt
      rw [if_neg hlt]
      omega

theorem fval_of_isZero {a : Word} (h : isZero a = true) : fval a = 0 := by
  rw [fval_eq_signed, (fmag_eq_zero_iff a).2 h, signed_zero]

/-- No comparison tells a zero from a zero of either sign, or from a NaN. -/
theorem flt_fgt_zero {a b : Word} (ha : isZero a = true) (hb : isZero b = true ∨ isNaN b = true) :
    flt a b = false ∧ fgt a b = false := by
  rw [fgt_eq_flt]
  rcases hb with hb | hb
  · simp [flt, fval_of_isZero ha, fval_of_isZero hb]
  · exact ⟨flt_nan_right hb a, flt_nan_left hb a⟩

/-- Settles O26: one equation of the clamp per clause. -/
theorem clampSelectsByBounds : Obligations.ClampSelectsByBounds := by
  intro lo hi y
  refine ⟨rfl, clamp_cases lo hi y, fun hy => clamp_nan hy lo hi, fun hy hlo hhi h => ?_, clamp_inverted,
    fun hhi => ?_, fun hlo => ?_, fun hy hlo hhi => ?_⟩
  · refine ⟨fval_clamp hy hlo hhi h, fun hge hle => clamp_inside ?_ ?_⟩
    · rw [← Bool.not_eq_true, flt_iff hy hlo]
      omega
    · rw [← Bool.not_eq_true, fgt_iff hy hhi]
      omega
  · exact clamp_of_not_fgt ((fgt_eq_flt y hi).trans (flt_nan_left hhi y)) lo
  · exact clamp_of_not_flt (flt_nan_right hlo y) (flt_nan_right hlo hi)
  · exact clamp_inside (flt_fgt_zero hy hlo).1 (flt_fgt_zero hy hhi).2

end Sys2Proof.Machine
end

section
/-! SUPPORT. IIR_UPDATE on the machine (41_biquad_iir.md R135–R142): what it stores, and where the previous
output goes. -/

namespace Sys2Proof.Machine

/-- Both forms of IIR_UPDATE are one update, with and without hold. -/
theorem exists_hold {i : Instr} (hi : i = .iirUpdate ∨ i = .iirUpdateHold) :
    ∃ hold, ∀ s, exec i s = .next (iirUpdate hold s) := by
  obtain rfl | rfl := hi
  · exact ⟨false, fun _ => rfl⟩
  · exact ⟨true, fun _ => rfl⟩

section update

variable (hold : Bool) (s : State)

@[simp] theorem iirUpdate_res0 : (iirUpdate hold s).res0 = iirOutput hold s.iir (shiftIn s.arg0 s.xy) := rfl
@[simp] theorem iirUpdate_xy : (iirUpdate hold s).xy =
    ⟨s.arg0, s.xy.xy0, iirOutput hold s.iir (shiftIn s.arg0 s.xy), s.xy.xy2, s.xy.xy3⟩ := rfl

end update

theorem iirOutput_eq_clamp (hold : Bool) (c : IirCfg) (v : IirXy) :
    iirOutput hold c v = clamp c.ymin c.ymax (if hold then v.xy3 else macc c v) := rfl

/-- A product that is a NaN makes the sum one, whatever comes after (41_biquad_iir.md R136). -/
theorem macc_nan {c : IirCfg} {v : IirXy} (h : fmul c.ba0 v.xy0 = qNaN) : macc c v = qNaN := by
  simp only [macc, List.foldl, h, fadd_nan_left, fadd_nan_right, isNaN_qNaN]

theorem fmul_zero_inf {a b : Word} (ha : isZero a = true) (hb : isInf b = true) : fmul a b = qNaN := by
  simp [fmul, ha, hb]

/-- Settles O28: the output reads the configuration, the shifted slots and ARG0. -/
theorem iirOutputDependsOnConfigurationAndHistory : Obligations.IirOutputDependsOnConfigurationAndHistory := by
  intro i s s' t t' hi hiir hxy harg h h'
  obtain ⟨hold, hexec⟩ := exists_hold hi
  obtain rfl := Host.Outcome.next.inj ((hexec s).symm.trans h)
  obtain rfl := Host.Outcome.next.inj ((hexec s').symm.trans h')
  simp only [iirUpdate_res0, iirUpdate_xy, hiir, hxy, harg, and_self]

/-- Settles O29: the output is stored in the middle slot, and each update shifts the slots by one. -/
theorem clampedOutputIsFedBack : Obligations.ClampedOutputIsFedBack := by
  intro i j k s t u v x x' hi hj hk h h' h''
  obtain ⟨hold, hexec⟩ := exists_hold hi
  obtain ⟨hold', hexec'⟩ := exists_hold hj
  obtain ⟨hold'', hexec''⟩ := exists_hold hk
  obtain rfl := Host.Outcome.next.inj ((hexec _).symm.trans h)
  obtain rfl := Host.Outcome.next.inj ((hexec' _).symm.trans h')
  obtain rfl := Host.Outcome.next.inj ((hexec'' _).symm.trans h'')
  exact ⟨⟨_, rfl⟩, rfl, rfl, rfl⟩

/-- Settles O30: the held update clamps what is already clamped. -/
theorem holdReplaysThePreviousOutput : Obligations.HoldReplaysThePreviousOutput := by
  intro i s t u v hi h hxy hmin hmax hv
  obtain ⟨hold, hexec⟩ := exists_hold hi
  obtain rfl := Host.Outcome.next.inj ((hexec s).symm.trans h)
  obtain rfl := Host.Outcome.next.inj hv
  have hreplay : iirOutput true u.iir (shiftIn u.arg0 u.xy) = iirOutput hold s.iir (shiftIn s.arg0 s.xy) := by
    rw [iirOutput_eq_clamp, hmin, hmax, hxy]
    exact clamp_clamp _ _ _
  exact ⟨hreplay, by rw [iirUpdate_xy, hreplay, iirUpdate_res0]⟩

/-- Settles O27: the states by unfolding; a NaN product carries through the fold and the clamp. -/
theorem iirUpdateFiltersOneSample : Obligations.IirUpdateFiltersOneSample := by
  refine ⟨fun s => rfl, fun s => rfl, fun s t h hx => ?_, fun s t hiir hxy harg h => ?_⟩
  · obtain rfl := Host.Outcome.next.inj h
    have hmul : fmul s.iir.ba0 s.arg0 = qNaN := by
      obtain hnan | ⟨hinf, hzero⟩ := hx
      · exact fmul_nan_right hnan _
      · exact fmul_zero_inf hzero hinf
    have hmacc : macc s.iir (shiftIn s.arg0 s.xy) = qNaN := macc_nan hmul
    have hout : iirOutput false s.iir (shiftIn s.arg0 s.xy) = qNaN := by
      rw [iirOutput_eq_clamp, if_neg (by decide), hmacc, clamp_nan isNaN_qNaN]
    exact ⟨hout, hout, rfl⟩
  · obtain rfl := Host.Outcome.next.inj h
    have hout : iirOutput false s.iir (shiftIn s.arg0 s.xy) = 0x3F800000 := by
      rw [hiir, hxy, harg]
      decide +kernel
    rw [iirUpdate_res0, iirUpdate_xy, hout, hxy, harg]
    exact ⟨rfl, rfl⟩

/-- What is the canonical NaN or no NaN is, if a NaN, the canonical one. -/
theorem eq_qNaN_of_isNaN {r : Word} (h : r = qNaN ∨ isNaN r = false) (hr : isNaN r = true) : r = qNaN :=
  h.resolve_right (by simp [hr])

/-- Settles O24: the four `_cases` lemmas; the moves store or select whole patterns. -/
theorem naNsAreCanonicalAndMovesKeepPatterns : Obligations.NaNsAreCanonicalAndMovesKeepPatterns := by
  refine ⟨fun a b => ⟨eq_qNaN_of_isNaN (fadd_cases a b), eq_qNaN_of_isNaN (fadd_cases a (fneg b)),
    eq_qNaN_of_isNaN ((fmul_cases a b).imp_right And.left), eq_qNaN_of_isNaN ((fdiv_cases a b).imp_right And.left)⟩,
    fun s t h => ?_, fun s t h => ?_, clamp_cases, fun r w s hr => ?_⟩
  · obtain h | h := h <;> obtain rfl := Host.Outcome.next.inj h <;> exact ⟨rfl, rfl, rfl, rfl⟩
  · obtain rfl := Host.Outcome.next.inj h
    exact clamp_cases _ _ _
  · exact readReg_writeReg_self (by simp [hr]) w s

end Sys2Proof.Machine
end

section
/-! SUPPORT. Values that binary32 has are not changed by rounding, so 1.0 is a unit of the product
(41_biquad_iir.md R131). -/

namespace Sys2Proof.Machine

/-- The greatest finite magnitude is (2^24 − 1) · 2^253 units, half a step below the overflow. -/
theorem fmag_lt_of_isFin {q : Word} (h : isFin q = true) : fmag q < (2 ^ 25 - 1) * 2 ^ 252 := by
  have hf := ffrac_lt q
  have he := fexp_lt q
  have hne : fexp q ≠ 255 := by simpa [isFin] using h
  have hpow : 2 ^ (fexp q - 1) ≤ 2 ^ 253 := Nat.pow_le_pow_right (by decide) (by omega)
  rw [fmag]
  split
  · omega
  · calc (2 ^ 23 + ffrac q) * 2 ^ (fexp q - 1) ≤ (2 ^ 24 - 1) * 2 ^ 253 := Nat.mul_le_mul (by omega) hpow
      _ < (2 ^ 25 - 1) * 2 ^ 252 := by decide

/-- An exact result that binary32 has is the rounded one. -/
theorem RoundsTo.exact {r q : Word} {n d : Int} (h : RoundsTo r n d) (hd : 0 < d) (hq : isFin q = true)
    (hn : fval q * d = n) : isFin r = true ∧ fval r = fval q := by
  subst hn
  obtain ⟨hfin, -, hbest⟩ | ⟨-, hover⟩ := h
  · have hle := (hbest q hq).1
    rw [sub_self, abs_zero] at hle
    have hzero := sub_eq_zero.1 (abs_nonpos_iff.1 hle)
    exact ⟨hfin, mul_right_cancel₀ hd.ne' hzero⟩
  · rw [abs_mul, abs_fval, abs_of_pos hd] at hover
    have hlt := fmag_lt_of_isFin hq
    zify at hlt
    exact absurd (mul_lt_mul_of_pos_right hlt hd) (not_lt.2 hover)

/-- A finite pattern is determined by its sign and its magnitude. -/
theorem eq_of_fsign_of_fmag {a b : Word} (ha : isFin a = true) (hb : isFin b = true)
    (hsign : fsign a = fsign b) (hmag : fmag a = fmag b) : a = b := by
  have hfabs : ∀ {c : Word}, isFin c = true → roundMag (fmag c) 1 = fabs c := fun {c} hc => by
    rw [isFin, fexp_eq, bne_iff_ne] at hc
    rw [← fmag_fabs, roundMag_fmag (by rw [fabs_toNat]; omega)]
  rw [← withSign_fabs a, ← withSign_fabs b, ← hfabs ha, ← hfabs hb, hsign, hmag]

/-- A pattern with the exponent and fraction of a magnitude m is m under its sign. -/
theorem eq_withSign {a m : Word} (hm : m.toNat = fexp a * 2 ^ 23 + ffrac a) : a = withSign (fsign a) m := by
  have hfabs : fabs a = m := by
    apply BitVec.eq_of_toNat_eq
    rw [hm, fabs_toNat, fexp_eq, ffrac_eq]
    omega
  rw [← hfabs, withSign_fabs]

theorem eq_finf_of_isInf {a : Word} (h : isInf a = true) : a = finf (fsign a) := by
  rw [isInf, Bool.and_eq_true, beq_iff_eq, beq_iff_eq] at h
  exact eq_withSign (by rw [h.1, h.2]; rfl)

theorem eq_fzero_of_isZero {a : Word} (h : isZero a = true) : a = fzero (fsign a) := by
  rw [isZero, Bool.and_eq_true, beq_iff_eq, beq_iff_eq] at h
  exact eq_withSign (by rw [h.1, h.2]; rfl)

theorem isFin_of_isZero {a : Word} (h : isZero a = true) : isFin a = true := by
  simp_all [isZero, isFin]

theorem isInf_of_not_isFin {a : Word} (h : isNaN a = false) (h' : isFin a = false) : isInf a = true := by
  simp_all [isNaN, isFin, isInf]

theorem fmul_comm (a b : Word) : fmul a b = fmul b a := by
  rw [fmul, fmul, bne_comm, Bool.or_comm (isNaN a), Bool.or_comm (isInf a), Bool.or_comm (isZero a),
    Nat.mul_comm (fmag a)]

theorem fmul_fOne {a : Word} (h : isNaN a = false) : fmul a fOne = a := by
  have hone : isFin fOne = true := by decide
  cases hfin : isFin a with
  | true =>
    have hval : fval a * 2 ^ 149 = fval a * fval fOne := by
      rw [show fval fOne = 2 ^ 149 by decide +kernel]
    obtain ⟨hprod, heq⟩ := (roundsTo_fmul hfin hone).exact (by positivity) hfin hval
    have hsign : fsign (fmul a fOne) = fsign a := by
      rw [fmul_of_isFin hfin hone, fsign_withSign_roundMag]
      exact Bool.xor_false _
    have hmag : fmag (fmul a fOne) = fmag a := by
      zify
      rw [← abs_fval, ← abs_fval, heq]
    exact eq_of_fsign_of_fmag hprod hfin hsign hmag
  | false =>
    rw [eq_finf_of_isInf (isInf_of_not_isFin h hfin), fmul_finf_left hone _ (by decide)]
    exact congrArg finf (Bool.xor_false _)

/-- A sum with a product by 1.0 does not see it, a NaN for a NaN. -/
theorem fadd_fmul_fOne_left (a b : Word) : fadd (fmul a fOne) b = fadd a b := by
  cases h : isNaN a with
  | false => rw [fmul_fOne h]
  | true => rw [fmul_nan_left h, fadd_nan_left h, fadd_nan_left isNaN_qNaN]

theorem fsub_fOne_fmul_right (a b : Word) : fsub a (fmul fOne b) = fsub a b := by
  cases h : isNaN b with
  | false => rw [fmul_comm, fmul_fOne h]
  | true => rw [fmul_nan_right h, fsub_nan (.inr h), fsub_nan (.inr isNaN_qNaN)]

end Sys2Proof.Machine
end

section
/-! SUPPORT. The PI synthesis (41_biquad_iir.md R143–R146). -/

namespace Sys2Proof.Machine

@[simp] theorem fsign_fcopysign (a b : Word) : fsign (fcopysign a b) = fsign b := by
  rw [fcopysign_eq_withSign, fsign_withSign _ (fabs_lt a)]

@[simp] theorem isNaN_fcopysign (a b : Word) : isNaN (fcopysign a b) = isNaN a := by
  rw [fcopysign_eq_withSign, isNaN_withSign, isNaN_fabs]

@[simp] theorem fmag_fcopysign (a b : Word) : fmag (fcopysign a b) = fmag a := by
  rw [fcopysign_eq_withSign, fmag_withSign _ (fabs_lt a), fmag_fabs]

@[simp] theorem isZero_fcopysign (a b : Word) : isZero (fcopysign a b) = isZero a := by
  simp [fcopysign_eq_withSign, isZero]

@[simp] theorem small_fcopysign (a b : Word) : small (fcopysign a b) = small a := by
  rw [Bool.eq_iff_iff, small_iff, small_iff, abs_fval, abs_fval, isNaN_fcopysign, fmag_fcopysign]

/-- Where the gain limit is 1.0 the synthesis is a pure integrator (41_biquad_iir.md R144). -/
theorem piCoeffs_of_piBlend {kp ki g : Word} (h : piBlend (fcopysign ki kp) (fcopysign g kp) = fOne) :
    piCoeffs kp ki g =
      ⟨fadd (fcopysign ki kp) kp, fsub (fcopysign ki kp) kp, fOne,
        small (fadd (fadd (fcopysign ki kp) kp) (fsub (fcopysign ki kp) kp))⟩ := by
  have ha1 : fsub (fmul fTwo fOne) fOne = fOne := by decide +kernel
  have hb1 : fsub (fmul (fcopysign ki kp) fOne) (fmul fOne kp) = fsub (fcopysign ki kp) kp := by
    rw [fsub_fOne_fmul_right, fsub, fsub, fadd_fmul_fOne_left]
  simp only [piCoeffs, h, ha1, hb1, fadd_fmul_fOne_left]

/-- Settles O31: the two branches on the degenerate sum. -/
theorem setPiStoresTheSynthesis : Obligations.SetPiStoresTheSynthesis := by
  intro s
  exact ⟨fun h => execIirSetpi_regular h, fun h => execIirSetpi_degenerate h⟩

/-- Settles O32: for a small g the gain limit is 1.0. -/
theorem smallGainLimitGivesAPureIntegrator : Obligations.SmallGainLimitGivesAPureIntegrator := by
  intro s t hg h herr
  have hblend : piBlend (fcopysign s.arg1 s.arg0) (fcopysign s.arg2 s.arg0) = fOne := by
    simp [piBlend, hg]
  have hpi := piCoeffs_of_piBlend hblend
  cases hd : (piCoeffs s.arg0 s.arg1 s.arg2).degenerate with
  | true =>
    obtain rfl := Host.Outcome.next.inj ((execIirSetpi_degenerate hd).symm.trans h)
    cases herr
  | false =>
    obtain rfl := Host.Outcome.next.inj ((execIirSetpi_regular hd).symm.trans h)
    rw [hpi]
    exact ⟨rfl, rfl, rfl, rfl, rfl⟩

/-- A zero over a nonzero g is a zero, so the gain limit is 1.0 (41_biquad_iir.md R146). -/
theorem piBlend_zero {ki g : Word} (hki : isZero ki = true) (hg : isNaN g = false) : piBlend ki g = fOne := by
  cases hsmall : small g with
  | true => simp [piBlend, hsmall]
  | false =>
    have hg0 : isZero g = false := by
      rw [← Bool.not_eq_true]
      intro h
      have := (small_iff g).2 ⟨hg, by simp [fval_of_isZero h]⟩
      simp [hsmall] at this
    have hunit : ∀ m : Bool, fdiv fOne (fadd fOne (fzero m)) = fOne := by decide +kernel
    have hquot : ∃ m, fdiv ki g = fzero m := by
      rw [eq_fzero_of_isZero hki]
      cases hfin : isFin g with
      | true => exact ⟨_, fdiv_fzero_left hfin _ hg0⟩
      | false =>
        rw [eq_finf_of_isInf (isInf_of_not_isFin hg hfin)]
        exact ⟨_, fdiv_finf_right (isFin_of_isZero (isZero_fzero _)) _⟩
    obtain ⟨m, hm⟩ := hquot
    simp only [piBlend, hsmall, hm, hunit]
    rfl

/-- A zero added to a finite value leaves the value. -/
theorem fadd_zero_left {z a : Word} (hz : isZero z = true) (ha : isFin a = true) :
    isFin (fadd z a) = true ∧ fval (fadd z a) = fval a :=
  (roundsTo_fadd (isFin_of_isZero hz) ha).exact Int.one_pos ha (by rw [fval_of_isZero hz]; ring)

/-- (z + a) + (z − a) vanishes for a zero z. -/
theorem small_fadd_zero_sums {z a : Word} (hz : isZero z = true) (ha : isFin a = true) :
    small (fadd (fadd z a) (fsub z a)) = true := by
  obtain ⟨hsum, hsumval⟩ := fadd_zero_left hz ha
  obtain ⟨hdiff, hdiffval⟩ := fadd_zero_left hz ((isFin_fneg a).trans ha)
  rw [fsub, fadd_vanishing hsum hdiff (by rw [hsumval, hdiffval, fval_fneg]; ring), small_iff]
  simp

/-- Settles O33: the gain limit is 1.0, and b0 + b1 = (ki + kp) + (ki − kp) vanishes. -/
theorem zeroIntegralGainIsDegenerate : Obligations.ZeroIntegralGainIsDegenerate := by
  intro s hki hkp hg
  have hpi := piCoeffs_of_piBlend (kp := s.arg0) (ki := s.arg1) (g := s.arg2)
    (piBlend_zero (by simp [hki]) (by simp [hg]))
  have hdeg : (piCoeffs s.arg0 s.arg1 s.arg2).degenerate = true := by
    rw [hpi]
    exact small_fadd_zero_sums ((isZero_fcopysign _ _).trans hki) hkp
  exact execIirSetpi_degenerate hdeg

end Sys2Proof.Machine
end

section
/-! SUPPORT. The offset and gain commands (41_biquad_iir.md R148–R150). -/

namespace Sys2Proof.Machine

/-- Settles O34: the state by unfolding; a finite value times a zero is a zero. -/
theorem setXoffStoresTheScaledOffset : Obligations.SetXoffStoresTheScaledOffset := by
  intro s k
  refine ⟨rfl, fun hk hx => ?_⟩
  rw [eq_fzero_of_isZero hk, fmul_fzero_right hx, isZero_fzero]

/-- Settles O35: the two branches on the small gain; ±2^-23 and the NaN are not small. -/
theorem getXoffDividesByTheGain : Obligations.GetXoffDividesByTheGain := by
  intro s k
  refine ⟨fun h => execIirGetxoff_notSmall h, fun h => execIirGetxoff_small h, ?_, fun h => ⟨?_, fdiv_nan_right h _⟩⟩
  · rintro (h | h) <;> rw [h] <;> decide +kernel
  · rw [← Bool.not_eq_true, small_iff, h]
    simp

/-- Settles O36: the state by unfolding, the corner cases run. -/
theorem getKReturnsTheTapSum : Obligations.GetKReturnsTheTapSum := by
  refine ⟨fun s => rfl, fun s t h => ?_⟩
  obtain rfl := Host.Outcome.next.inj h
  show (_ → _ → _ → dcGain s.iir = _) ∧ (_ → _ → dcGain s.iir = _) ∧ (_ → _ → _ → dcGain s.iir = _)
  refine ⟨fun h0 h1 h2 => ?_, fun h0 h1 => ?_, fun h0 h1 h2 => ?_⟩
  · rw [dcGain, h0, h1, h2]
    decide +kernel
  · have hsum : fadd 0x7F800000 0xFF800000 = qNaN := by decide +kernel
    rw [dcGain, h0, h1, hsum]
    exact fadd_nan_left isNaN_qNaN _
  · rw [dcGain, h0, h1, h2]
    decide +kernel

end Sys2Proof.Machine
end

section
/-! SUPPORT. The rounding shift in exact integers (42_pll_shift.md R162, R170): its bias is 2^(n−1), added
with one possible wrap, and only a biased value in [0, 2^n) floors to 0. -/

namespace Sys2Proof.Machine

/-- The bias of a legal shift is at most 2^29, so it is positive as an i32. -/
theorem shiftBias_le {n : Nat} (hn : n ≤ 30) : (2 : Int) ^ (n - 1) ≤ 2 ^ 29 :=
  pow_le_pow_right₀ (by decide) (by omega)

theorem shiftBias_toInt {n : Nat} (hn : n ≤ 30) : (BitVec.ofNat 32 (2 ^ (n - 1))).toInt = 2 ^ (n - 1) := by
  have hle := shiftBias_le hn
  have hpos : (0 : Int) < 2 ^ (n - 1) := by positivity
  rw [BitVec.toInt_ofNat', Nat.cast_pow, Nat.cast_ofNat, Int.bmod_eq_of_le] <;> omega

/-- Below the edge the bias does not wrap (42_pll_shift.md R162). -/
theorem biased_toInt {v : Word} {n : Nat} (hn : n ≤ 30) (h : v.toInt < 2 ^ 31 - 2 ^ (n - 1)) :
    (v + BitVec.ofNat 32 (2 ^ (n - 1))).toInt = v.toInt + 2 ^ (n - 1) := by
  have hpos : (0 : Int) < 2 ^ (n - 1) := by positivity
  have hv := BitVec.le_toInt v
  rw [BitVec.toInt_add, shiftBias_toInt hn, Int.bmod_eq_of_le] <;> omega

/-- From the edge on the bias wraps once (42_pll_shift.md R162). -/
theorem biased_toInt_wraps {v : Word} {n : Nat} (hn : n ≤ 30) (h : 2 ^ 31 - 2 ^ (n - 1) ≤ v.toInt) :
    (v + BitVec.ofNat 32 (2 ^ (n - 1))).toInt = v.toInt + 2 ^ (n - 1) - 2 ^ 32 := by
  have hle := shiftBias_le hn
  have hv := BitVec.toInt_lt (x := v)
  rw [BitVec.toInt_add, shiftBias_toInt hn, ← Int.sub_bmod_right, Int.bmod_eq_of_le] <;> omega

/-- An i32 shifted right by n with flooring has 32 − n bits. -/
theorem toInt_div_two_pow_bounds (v : Word) {n : Nat} (hn : n ≤ 31) :
    -(2 ^ (31 - n)) ≤ v.toInt / 2 ^ n ∧ v.toInt / 2 ^ n ≤ 2 ^ (31 - n) - 1 := by
  have hpos : (0 : Int) < 2 ^ n := by positivity
  have hsplit : (2 : Int) ^ (31 - n) * 2 ^ n = 2 ^ 31 := by rw [← pow_add, Nat.sub_add_cancel hn]
  constructor
  · rw [Int.le_ediv_iff_mul_le hpos, Int.neg_mul, hsplit]
    exact BitVec.le_toInt v
  · rw [Int.le_sub_one_iff, Int.ediv_lt_iff_lt_mul hpos, hsplit]
    exact BitVec.toInt_lt

/-- Settles O38: the two sides of the edge, and the width of a floored i32. -/
theorem roundingShiftRoundsHalfUp : Obligations.RoundingShiftRoundsHalfUp := by
  intro v n h1 hn
  have hbounds := toInt_div_two_pow_bounds (v + BitVec.ofNat 32 (2 ^ (n - 1))) (n := n) (by omega)
  refine ⟨rshr_toInt v n, fun h => ?_, fun h => ?_, ?_⟩
  · have htwice : 2 * v.toInt + 2 ^ n = 2 * (v.toInt + 2 ^ (n - 1)) := by
      rw [mul_add, mul_pow_sub_one (by omega)]
    rw [rshr_toInt, biased_toInt hn h, htwice, pow_succ', Int.mul_ediv_mul_of_pos _ _ (by decide)]
  · rw [rshr_toInt, biased_toInt_wraps hn h]
  · rwa [rshr_toInt]

/-- The rounding shift is 0 exactly on [−2^(n−1), 2^(n−1)): a wrapped bias leaves a negative value
(42_pll_shift.md R170). -/
theorem rshr_eq_zero_iff {v : Word} {n : Nat} (h1 : 1 ≤ n) (hn : n ≤ 30) :
    rshr v n = 0 ↔ -(2 ^ (n - 1)) ≤ v.toInt ∧ v.toInt < 2 ^ (n - 1) := by
  have hpos : (0 : Int) < 2 ^ n := by positivity
  have hle := shiftBias_le hn
  have htwice : (2 : Int) * 2 ^ (n - 1) = 2 ^ n := mul_pow_sub_one (by omega) 2
  have hfloor : rshr v n = 0 ↔ 0 ≤ (v + BitVec.ofNat 32 (2 ^ (n - 1))).toInt ∧
      (v + BitVec.ofNat 32 (2 ^ (n - 1))).toInt < 2 ^ n := by
    rw [← BitVec.toInt_inj, rshr_toInt, Int.ediv_eq_iff_of_pos hpos]
    simp
  rw [hfloor]
  rcases lt_or_ge v.toInt (2 ^ 31 - 2 ^ (n - 1)) with h | h
  · rw [biased_toInt hn h]
    omega
  · have hv := BitVec.toInt_lt (x := v)
    rw [biased_toInt_wraps hn h]
    omega

theorem rshr_zero {n : Nat} (h1 : 1 ≤ n) (hn : n ≤ 30) : rshr 0#32 n = 0#32 :=
  (rshr_eq_zero_iff h1 hn).2 ⟨by simp, by simp⟩

@[simp] theorem half_zero : half 0#32 = 0#32 := rfl

theorem rshr_eq_ofInt (v : Word) (n : Nat) :
    rshr v n = BitVec.ofInt 32 ((v + BitVec.ofNat 32 (2 ^ (n - 1))).toInt / 2 ^ n) := by
  rw [← rshr_toInt, BitVec.ofInt_toInt]

theorem half_eq_ofInt (v : Word) : half v = BitVec.ofInt 32 (v.toInt / 2) := by
  rw [← half_toInt, BitVec.ofInt_toInt]

end Sys2Proof.Machine
end

section
/-! SUPPORT. The PLLS update as a function of its registers (42_pll_shift.md R164–R172): what it does to a
sample that follows the frequency, and what it does to a phase offset that rounds to 0. -/

namespace Sys2Proof.Machine

theorem bounds_of_shiftsLegal {sf sp : Nat} (h : shiftsLegal sf sp = true) :
    (1 ≤ sf ∧ sf ≤ 30) ∧ 1 ≤ sp ∧ sp ≤ 30 := by
  simp only [shiftsLegal, shiftLegal, Bool.and_eq_true, decide_eq_true_eq] at h
  exact h

/-- A sample at x + f has no frequency error, so it updates as a missing one (42_pll_shift.md R169). -/
theorem pllsAdvance_followed {sf : Nat} (h1 : 1 ≤ sf) (h30 : sf ≤ 30) (sp : Nat) (p : Plls) :
    pllsAdvance (some (p.x + p.f)) sf sp p = pllsAdvance none sf sp p := by
  have hstep : pllsFreqStep (some (p.x + p.f)) sf p = pllsFreqStep none sf p := by
    simp [pllsFreqStep, rshr_zero h1 h30]
  rw [pllsAdvance, pllsAdvance, hstep]

/-- A phase error x − y that rounds to 0 is not corrected over a missing sample (42_pll_shift.md R170). -/
theorem pllsAdvance_none_of_offset {sp : Nat} {p : Plls} (h : rshr (p.x - p.y) sp = 0) (sf : Nat) :
    pllsAdvance none sf sp p = ⟨p.x + p.f, p.f, p.y + p.f, p.y + p.f, p.f⟩ := by
  have hoff : p.x + p.f - (p.y + p.f) = p.x - p.y := add_sub_add_right_eq_sub _ _ _
  simp [pllsAdvance, pllsFreqStep, pllsPhaseStep, hoff, h]

/-- From zero state the sample 0 follows the frequency, and the phase offset is 0 (42_pll_shift.md R172). -/
theorem pllsAdvance_zero {sf sp : Nat} (h : shiftsLegal sf sp = true) {p : Plls} (hx : p.x = 0)
    (hf : p.f = 0) (hy : p.y = 0) : pllsAdvance (some 0) sf sp p = ⟨0, 0, 0, 0, 0⟩ := by
  obtain ⟨⟨hf1, hf30⟩, hp1, hp30⟩ := bounds_of_shiftsLegal h
  have hfollow := pllsAdvance_followed hf1 hf30 sp p
  have hoff : rshr (p.x - p.y) sp = 0 := by simp [hx, hy, rshr_zero hp1 hp30]
  rw [pllsAdvance_none_of_offset hoff] at hfollow
  simpa [hx, hf, hy] using hfollow

/-- Settles O39: the floors of exact integers are the model's shifts; the example runs. -/
theorem pllsUpdateTracksOneSample : Obligations.PllsUpdateTracksOneSample := by
  simp only [Obligations.PllsUpdateTracksOneSample, ← rshr_eq_ofInt, ← half_eq_ofInt]
  refine ⟨?_, ?_, ?_⟩
  · intro sf sp s hf1 hf30 hp1 hp30
    exact congrArg Host.Outcome.next
      (pllsUpdate_legal (shiftsLegal_of_bounds hf1 hf30 hp1 hp30) (some s.arg0) s)
  · intro sf sp s hf1 hf30 hp1 hp30
    exact congrArg Host.Outcome.next (pllsUpdate_legal (shiftsLegal_of_bounds hf1 hf30 hp1 hp30) none s)
  · intro s t hplls harg h
    obtain rfl := Host.Outcome.next.inj h
    have hadv : pllsAdvance (some s.arg0) 8 4 s.plls = ⟨0x10000, 0x100, 0x1078, 0x87C, 0x1078⟩ := by
      rw [hplls, harg]
      decide
    rw [pllsUpdate_legal (by decide), hadv]
    exact ⟨rfl, rfl, rfl, rfl, rfl⟩

/-- Legal shifts run a sample at x + f as a missing one (42_pll_shift.md R169). -/
theorem pllsUpdate_followed {sf sp : Nat} (h : shiftsLegal sf sp = true) {s : State}
    (harg : s.arg0 = s.plls.x + s.plls.f) :
    pllsUpdate (some s.arg0) sf sp s = pllsUpdate none sf sp s := by
  obtain ⟨⟨hf1, hf30⟩, -⟩ := bounds_of_shiftsLegal h
  rw [pllsUpdate_legal h, pllsUpdate_legal h, harg, pllsAdvance_followed hf1 hf30]

/-- The PLLS registers after a sample at x + f are those after a missing one (42_pll_shift.md R169). -/
theorem plls_of_followed {sf sp : Nat} (hlegal : shiftsLegal sf sp = true) {s t : State}
    (harg : s.arg0 = s.plls.x + s.plls.f) (h : exec (.pllsUpdate sf sp) s = .next t) :
    t.plls = pllsAdvance none sf sp s.plls := by
  obtain rfl := Host.Outcome.next.inj h
  rw [pllsUpdate_followed hlegal harg, pllsUpdate_legal hlegal]
  rfl

/-- Settles O41: the sample at x + f leaves no frequency error. -/
theorem missingSampleContinuesTheLoop : Obligations.MissingSampleContinuesTheLoop := by
  intro sf sp s hf1 hf30 hp1 hp30 harg
  have hlegal := shiftsLegal_of_bounds hf1 hf30 hp1 hp30
  refine ⟨congrArg Host.Outcome.next (pllsUpdate_followed hlegal harg).symm, ?_, fun t h => ?_⟩
  · rw [harg, add_sub_cancel_left, sub_self]
    exact rshr_zero hf1 hf30
  · rw [plls_of_followed hlegal harg h]
    rfl

/-- Settles O42: x and y both advance by f, so their difference stays. -/
theorem staticPhaseOffsetPersists : Obligations.StaticPhaseOffsetPersists := by
  refine ⟨fun v n h1 hn => rshr_eq_zero_iff h1 hn, ?_⟩
  intro sf sp s t hf1 hf30 hp1 hp30 harg hlo hhi h
  have hoff : rshr (s.plls.x - s.plls.y) sp = 0 := (rshr_eq_zero_iff hp1 hp30).2 ⟨hlo, hhi⟩
  rw [plls_of_followed (shiftsLegal_of_bounds hf1 hf30 hp1 hp30) harg h, pllsAdvance_none_of_offset hoff]
  exact ⟨rfl, add_sub_add_right_eq_sub _ _ _⟩

/-- Settles O43, the list of updates by induction: zero state is a fixed point of each. -/
theorem zeroInputKeepsZeroState : Obligations.ZeroInputKeepsZeroState := by
  intro shifts hlegal
  constructor
  · induction shifts with
    | nil => rfl
    | cons q qs ih =>
      rw [List.foldl_cons, pllsAdvance_zero (hlegal q List.mem_cons_self) rfl rfl rfl]
      exact ih fun r hr => hlegal r (List.mem_cons_of_mem q hr)
  · intro q hq s hx hf hy harg
    have hadv : pllsAdvance (some s.arg0) q.1 q.2 s.plls = ⟨0, 0, 0, 0, 0⟩ := by
      rw [harg]
      exact pllsAdvance_zero (hlegal q hq) hx hf hy
    have hupdate := pllsUpdate_legal (hlegal q hq) (some s.arg0) s
    rw [hadv] at hupdate
    exact congrArg Host.Outcome.next hupdate

/-- Settles O48: a read has no branch, so each result is the register it unfolds to. -/
theorem readCommandsReturnTheEstimates : Obligations.ReadCommandsReturnTheEstimates :=
  fun _ => ⟨rfl, rfl⟩

end Sys2Proof.Machine
end

section
/-! SUPPORT. The PLLG arithmetic in exact integers (43_pll_gain.md R182, R183): the product of two i32 values
fits in an i64, and a pair of registers holds its upper half, signed, times 2^32 plus its lower half. -/

namespace Sys2Proof.Machine

theorem abs_toInt_le (a : Word) : |a.toInt| ≤ 2 ^ 31 :=
  abs_le.2 ⟨BitVec.le_toInt a, BitVec.toInt_lt.le⟩

/-- The bound of a gain product, met by (−2^31)·(−2^31) (43_pll_gain.md R182). -/
theorem abs_mul_toInt_le (a b : Word) : |a.toInt * b.toInt| ≤ 2 ^ 62 :=
  calc |a.toInt * b.toInt| = |a.toInt| * |b.toInt| := abs_mul _ _
    _ ≤ 2 ^ 31 * 2 ^ 31 := mul_le_mul (abs_toInt_le a) (abs_toInt_le b) (abs_nonneg _) (by decide)
    _ = 2 ^ 62 := by norm_num

/-- Sign extension is the signed value taken modulo 2^64, so the product is the wrapped integer product. -/
theorem mul64_eq_ofInt (a b : Word) : mul64 a b = BitVec.ofInt 64 (a.toInt * b.toInt) :=
  (BitVec.ofInt_mul ..).symm

theorem append_toInt (hi lo : Word) : (hi ++ lo).toInt = hi.toInt * 2 ^ 32 + lo.toNat := by
  rw [BitVec.toInt_append, mul_comm]
  rfl

/-- F as an exact integer (10_state.md R45). -/
theorem accF_toInt (g : Pllg) : (accF g).toInt = g.fHi.toInt * 2 ^ 32 + g.fLo.toNat :=
  append_toInt _ _

/-- Y as an exact integer (10_state.md R45). -/
theorem accY_toInt (g : Pllg) : (accY g).toInt = g.yHi.toInt * 2 ^ 32 + g.yLo.toNat :=
  append_toInt _ _

@[simp] theorem hi32_accF (g : Pllg) : hi32 (accF g) = g.fHi :=
  hi32_append _ _

@[simp] theorem lo32_accF (g : Pllg) : lo32 (accF g) = g.fLo :=
  lo32_append _ _

/-- Settles O45: 2^62 is inside the i64 range, so the wrapped product is the product. -/
theorem gainProductsNeverWrap : Obligations.GainProductsNeverWrap := by
  intro a b
  have hbound := abs_mul_toInt_le a b
  obtain ⟨hlo, hhi⟩ := abs_le.1 hbound
  refine ⟨?_, hbound⟩
  rw [mul64_eq_ofInt]
  exact BitVec.toInt_ofInt_eq_self (by decide) (by omega) (by omega)

/-- Settles O46: a wrapped sum of integers is the sum of the wrapped integers, and the frequency that the
error df is taken against is F's upper register. -/
theorem pllgUpdateTracksOneSample : Obligations.PllgUpdateTracksOneSample := by
  intro s
  simp only [← accF_toInt, ← accY_toInt, BitVec.ofInt_add, BitVec.ofInt_toInt, ← mul64_eq_ofInt]
  show Host.Outcome.next (complete (setPllg (pllgPresent s.arg0 s.arg1 s.pllg) s)) = _
  rw [pllgPresent, hi32_accF]
  rfl

/-- Settles O47: Y + F wraps once, and F is stored as it was read. -/
theorem pllgMissingSampleAdvancesOpenLoop : Obligations.PllgMissingSampleAdvancesOpenLoop := by
  intro s
  simp only [← accF_toInt, ← accY_toInt, BitVec.ofInt_add, BitVec.ofInt_toInt]
  show Host.Outcome.next (complete (setPllg (pllgMissing s.pllg) s)) = _
  rw [pllgMissing, withAccs, hi32_accF, lo32_accF]
  rfl

end Sys2Proof.Machine
end

section
/-! SUPPORT. What is written to CMD where it does not run: an illegal word raises ILLEGAL_CMD before anything
else, and a PLLS_UPDATE with a shift outside [1, 30] raises SHIFT_RANGE (60_exceptions.md R202, R208, R209). -/

namespace Sys2Proof.Machine

/-- A shift pair is legal exactly within the bounds of 42_pll_shift.md R161. -/
theorem shiftsLegal_iff {sf sp : Nat} :
    shiftsLegal sf sp = true ↔ 1 ≤ sf ∧ sf ≤ 30 ∧ 1 ≤ sp ∧ sp ≤ 30 := by
  constructor
  · intro h
    obtain ⟨⟨hf, hf'⟩, hp, hp'⟩ := bounds_of_shiftsLegal h
    exact ⟨hf, hf', hp, hp'⟩
  · rintro ⟨hf, hf', hp, hp'⟩
    exact shiftsLegal_of_bounds hf hf' hp hp'

/-- Settles O40: both forms are one update, which raises SHIFT_RANGE on an illegal shift. -/
theorem illegalShiftRaisesShiftRange : Obligations.IllegalShiftRaisesShiftRange := by
  intro sf sp s hbounds i hi
  have hillegal : shiftsLegal sf sp = false := by
    rw [← Bool.not_eq_true, shiftsLegal_iff]
    exact hbounds
  obtain rfl | rfl := hi
  · exact congrArg Host.Outcome.next (pllsUpdate_illegal hillegal (some s.arg0) s)
  · exact congrArg Host.Outcome.next (pllsUpdate_illegal hillegal none s)

/-- With RESET released a word that does not decode raises ILLEGAL_CMD beside the word in CMD. -/
theorem step_illegalWord {s : State} {w : Word} {d : DecodeReject} {es : List HostEvent}
    (hs : s.host.script = .write 0x00C .word w :: es) (hr : s.host.resetIn = false)
    (hd : decode w = .reject d) :
    step s = .next (raiseFault .illegalCmd (writeReg .cmd w (setRdata none (setScript es s)))) := by
  have htarget : writeTarget 0x00C .word = some .cmd := by decide
  rw [step_write hs hr, busWrite_command htarget, execWord_illegal hd]
  rfl

/-- Settles O52: the step is a write of CMD and a fault, each seen in its own registers; the words run. -/
theorem illegalWordTouchesNoUnit : Obligations.IllegalWordTouchesNoUnit := by
  constructor
  · intro s w d es hs hr hd
    refine ⟨_, step_illegalWord hs hr hd, rfl, rfl, rfl, rfl, rfl, fun r hcmd hst hfcmd => ?_⟩
    rw [readReg_raiseFault hst hfcmd, readReg_writeReg_other hcmd, readReg_setRdata, readReg_setScript]
  · intro w hw
    simp only [List.mem_cons, List.not_mem_nil, or_false] at hw
    obtain rfl | rfl | rfl | rfl | rfl | rfl := hw <;> exact ⟨_, rfl⟩

/-- A bit outside its opcode's admitted fields makes a word illegal (30_encoding.md R92). -/
theorem decode_of_not_admitted {w : Word} {op : Opcode} (hop : opField w = opByte op)
    (hbits : w &&& ~~~(0x000000FF#32 ||| admittedBits op) ≠ 0) : decode w = .reject .bitNotAdmitted := by
  rw [decode, opcodeOf_eq_some_iff.mpr hop]
  exact if_pos hbits

/-- Bits of a word that a mask leaves out are 0 if no bit outside the mask is set. -/
theorem bits_eq_zero_of_masked {w m : Word} {lo n : Nat} (hw : w &&& ~~~m = 0)
    (hm : m.extractLsb' lo n = 0) : w.toNat / 2 ^ lo % 2 ^ n = 0 := by
  rw [← Nat.shiftRight_eq_div_pow, ← BitVec.extractLsb'_toNat, ← and_eq_self_of_and_not hw,
    BitVec.extractLsb'_and, hm]
  simp

/-- Settles O53: the bits named lie outside PLLS_UPDATE's admitted fields, so the word does not decode. -/
theorem decodeErrorsComeFirst : Obligations.DecodeErrorsComeFirst := by
  intro s t w es hs hr hop hreserved h
  have hbits : w &&& ~~~(0x000000FF#32 ||| admittedBits .pllsUpdate) ≠ 0 := by
    intro hw
    have hlow : w.toNat / 2 ^ 13 % 2 ^ 3 = 0 := bits_eq_zero_of_masked hw rfl
    have hmid : w.toNat / 2 ^ 21 % 2 ^ 3 = 0 := bits_eq_zero_of_masked hw rfl
    have hhigh : w.toNat / 2 ^ 25 % 2 ^ 7 = 0 := bits_eq_zero_of_masked hw rfl
    have hlt := w.isLt
    omega
  obtain rfl := Host.Outcome.next.inj
    ((step_illegalWord hs hr (decode_of_not_admitted (op := .pllsUpdate) hop hbits)).symm.trans h)
  rfl

end Sys2Proof.Machine
end

section
/-! SUPPORT. Every command answers a next state, and the code it ends with (60_exceptions.md R200, R210), as
the host reads it in STATUS (10_state.md R35). -/

namespace Sys2Proof.Machine

/-- No command stops the block (60_exceptions.md R203). -/
theorem exists_exec_next (i : Instr) (s : State) : ∃ t, exec i s = .next t := by
  cases i <;> exact ⟨_, rfl⟩

/-- A command without an illegal shift and without a status error of its own completes. -/
theorem exec_completes {i : Instr} (hgood : badShift i = false) (hpi : i ≠ .iirSetpi)
    (hxoff : i ≠ .iirGetxoff) (s : State) : ∃ t, exec i s = .next t ∧ EndsWith .ok s t := by
  obtain ⟨t, h⟩ := exists_exec_next i s
  obtain ⟨hbad, -⟩ | ⟨-, ht⟩ | ⟨rfl, -⟩ | ⟨rfl, -⟩ := exec_cases h
  · rw [hgood] at hbad
    cases hbad
  · exact ⟨t, h, ht⟩
  · exact absurd rfl hpi
  · exact absurd rfl hxoff

/-- Settles O54: none of these commands has an error to raise but PLLS_UPDATE, and its shifts are legal. -/
theorem perSampleCommandsNeverFail : Obligations.PerSampleCommandsNeverFail := by
  intro i s hi
  have hquiet : badShift i = false ∧ i ≠ .iirSetpi ∧ i ≠ .iirGetxoff := by
    obtain hi | ⟨sf, sp, hf, hf', hp, hp', hi⟩ := hi
    · have hlist : ∀ j ∈ [Instr.cossin, .iirUpdate, .iirUpdateHold, .pllgUpdate, .pllgUpdateMiss, .pllsRead,
          .pllgRead], badShift j = false ∧ j ≠ .iirSetpi ∧ j ≠ .iirGetxoff := by decide
      exact hlist i hi
    · have hlegal := shiftsLegal_of_bounds hf hf' hp hp'
      obtain rfl | rfl := hi <;> simp [badShift, hlegal]
  obtain ⟨hgood, hpi, hxoff⟩ := hquiet
  obtain ⟨t, h, ht⟩ := exec_completes hgood hpi hxoff s
  exact ⟨t, h, ht.status⟩

/-- STATUS as a number: ERR's code, and the sticky bits at 8 and 9 (10_state.md R35). -/
theorem statusWord_toNat (st : Status) : (statusWord st).toNat =
    (errCode st.err).toNat + (if st.fault then 2 ^ 8 else 0) + (if st.busErr then 2 ^ 9 else 0) := by
  obtain ⟨e, f, b⟩ := st
  cases e <;> cases f <;> cases b <;> rfl

/-- STATUS[3:0] as a number is ERR's code (10_state.md R35). -/
theorem readReg_status_mod (s : State) : (readReg .status s).toNat % 16 = (errCode s.status.err).toNat := by
  rw [← statusWord_err, BitVec.extractLsb'_toNat]
  rfl

/-- Settles O51, by the four ways a command ends; each code is read back from STATUS. -/
theorem everyCommandEndsWithItsCode : Obligations.EveryCommandEndsWithItsCode := by
  refine ⟨fun s => ?_, fun i s => ?_⟩
  · rw [show readReg .status s = statusWord s.status from rfl, statusWord_toNat]
    cases s.status.err <;> rfl
  · obtain ⟨t, h⟩ := exists_exec_next i s
    refine ⟨t, h, ?_⟩
    rw [readReg_status_mod]
    obtain ⟨hbad, rfl⟩ | ⟨hgood, ht⟩ | ⟨rfl, ht⟩ | ⟨rfl, ht⟩ := exec_cases h
    · exact ⟨.inr (.inl ⟨rfl, hbad, rfl⟩), fun _ => rfl⟩
    · rw [ht.status, hgood]
      exact ⟨.inl ⟨rfl, rfl⟩, nofun⟩
    · rw [ht.status]
      exact ⟨.inr (.inr (.inl ⟨rfl, rfl, rfl⟩)), nofun⟩
    · rw [ht.status]
      exact ⟨.inr (.inr (.inr ⟨rfl, rfl, rfl⟩)), nofun⟩

end Sys2Proof.Machine
end

section
/-! SUPPORT. A bus error as a step: which accesses are one, and what BEADDR reads after the first
(60_exceptions.md R207, 10_state.md R39). -/

namespace Sys2Proof.Machine

/-- An access that is not 4 bytes wide, or misaligned, or at a reserved offset, or a write to a read-only
register (60_exceptions.md R207). -/
def IsBusError (off : BitVec 12) (wr : Bool) (size : AccessSize) : Prop :=
  size ≠ .word ∨ off.toNat % 4 ≠ 0 ∨ regAt off = none ∨
    (wr = true ∧ ∃ r, regAt off = some r ∧ regRight r = .ro)

/-- A read that is a bus error reaches no register. -/
theorem IsBusError.readTarget_eq_none {off : BitVec 12} {size : AccessSize} (h : IsBusError off false size) :
    readTarget off size = none := by
  refine Option.eq_none_iff_forall_ne_some.mpr fun r hr => ?_
  obtain ⟨rfl, rfl⟩ := readTarget_eq_some.mp hr
  obtain hsize | halign | hres | ⟨hwr, -⟩ := h
  · exact hsize rfl
  · exact halign ((lowBits_eq_zero_iff _).mp (regOffset_aligned r))
  · simp at hres
  · cases hwr

/-- A write that is a bus error reaches no register. -/
theorem IsBusError.writeTarget_eq_none {off : BitVec 12} {size : AccessSize} (h : IsBusError off true size) :
    writeTarget off size = none := by
  refine Option.eq_none_iff_forall_ne_some.mpr fun r hr => ?_
  obtain ⟨rfl, rfl, hright⟩ := writeTarget_eq_some.mp hr
  obtain hsize | halign | hres | ⟨-, q, hq, hro⟩ := h
  · exact hsize rfl
  · exact halign ((lowBits_eq_zero_iff _).mp (regOffset_aligned r))
  · simp at hres
  · rw [regAt_regOffset] at hq
    cases hq
    exact hright hro

/-- A bus error does not look at the returned data. -/
theorem busError_setRdata (off : BitVec 12) (wr : Bool) (size : AccessSize) (d : Option Word) (s : State) :
    busError off wr size (setRdata d s) = setRdata d (busError off wr size s) := by
  cases hb : s.status.busErr with
  | true => rw [busError_again hb, busError_again (s := setRdata d s) hb]
  | false =>
    rw [busError_first hb, busError_first (s := setRdata d s) hb]
    rfl

/-- With RESET released an access that is a bus error, read or write, records it and returns 0 to a read. -/
theorem step_busError {s : State} {e : HostEvent} {off : BitVec 12} {wr : Bool} {size : AccessSize}
    {es : List HostEvent} (hs : s.host.script = e :: es) (hr : s.host.resetIn = false)
    (he : e = .read off size ∧ wr = false ∨ ∃ w, e = .write off size w ∧ wr = true)
    (h : IsBusError off wr size) :
    step s = .next (setRdata (if wr then none else some 0) (busError off wr size (setScript es s))) := by
  obtain ⟨rfl, rfl⟩ | ⟨w, rfl, rfl⟩ := he
  · rw [step_read hs hr, busRead_error h.readTarget_eq_none]
    rfl
  · rw [step_write hs hr, busWrite_error h.writeTarget_eq_none, busError_setRdata]
    rfl

/-- BEADDR as a number: OFF, WR at bit 12 and SIZE at bit 13 (10_state.md R39). -/
theorem beaddrWord_toNat (b : BusErrorRecord) : (beaddrWord b).toNat =
    b.off.toNat + (if b.wr then 2 ^ 12 else 0) + b.size.toNat * 2 ^ 13 := by
  rw [beaddrWord, BitVec.toNat_append, ← Nat.shiftLeft_add_eq_or_of_lt b.off.isLt, BitVec.toNat_append,
    ← Nat.shiftLeft_add_eq_or_of_lt (BitVec.isLt _), BitVec.toNat_append]
  simp only [Nat.shiftLeft_eq]
  cases b.wr <;> simp <;> omega

/-- The free SIZE code of a width that is none of 1, 2, 4 bytes (10_state.md R39). -/
theorem sizeCode_other_toNat (n : Nat) :
    3 ≤ (sizeCode .other n).toNat ∧ (sizeCode .other n).toNat ≤ 7 := by
  have free_code : ∀ k : Fin 5, 3 ≤ (BitVec.ofNat 3 (3 + k.val)).toNat ∧
      (BitVec.ofNat 3 (3 + k.val)).toNat ≤ 7 := by decide
  exact free_code (Config.freeSizeIndex n)

/-- Settles O13: the access records a bus error, which the second time changes nothing. -/
theorem busErrorsAreRecordedOnce : Obligations.BusErrorsAreRecordedOnce := by
  intro s e off wr size es hs hr he hbad
  refine ⟨_, step_busError hs hr he hbad, by simp, by simp, by simp, rfl, fun q hst hbe => ?_, fun hb => ?_,
    fun hb => ?_⟩
  · rw [readReg_setRdata, readReg_busError hst hbe, readReg_setScript]
  · rw [busError_again (s := setScript es s) hb, readReg_setRdata, readReg_setScript]
  · rw [busError_first (s := setScript es s) hb, readReg_setRdata]
    refine ⟨(sizeCode size s.host.freeIdx).toNat, beaddrWord_toNat _, ?_, ?_, ?_, ?_⟩
    · rintro rfl
      rfl
    · rintro rfl
      rfl
    · rintro rfl
      rfl
    · rintro rfl
      exact sizeCode_other_toNat _

end Sys2Proof.Machine
end

section
/-! SUPPORT. A script of good events runs clean: such an event is served without a fault or a bus error, so
each step leaves a clean state and the rest of the script (60_exceptions.md R201, R203, R207). -/

namespace Sys2Proof.Machine

/-- No write stops the block. -/
theorem exists_busWrite_next (off : BitVec 12) (size : AccessSize) (w : Word) (s : State) :
    ∃ t, busWrite off size w s = .next t := by
  cases ht : writeTarget off size with
  | none => exact ⟨_, busWrite_error ht⟩
  | some r =>
    by_cases hr : r = .cmd
    · subst hr
      rw [busWrite_command ht]
      cases hd : decode w with
      | ok i => rw [execWord_ok hd]; exact exists_exec_next i _
      | reject d => exact ⟨_, execWord_illegal hd⟩
    · exact ⟨_, busWrite_store ht hr⟩

/-- With RESET released nothing stops a step. -/
theorem exists_step_next {s : State} (hr : s.host.resetIn = false) : ∃ t, step s = .next t := by
  cases hs : s.host.script with
  | nil => exact ⟨s, step_idle hs⟩
  | cons e es =>
    cases e with
    | reset level => exact ⟨_, step_serve hs⟩
    | read off size => exact ⟨_, step_read hs hr⟩
    | write off size w => rw [step_write hs hr]; exact exists_busWrite_next off size w _

/-- A write of CMD is good if its word does not fault. -/
theorem goodEvent_command {off : BitVec 12} {size : AccessSize} {w : Word}
    (h : writeTarget off size = some .cmd) : goodEvent (.write off size w) = !faultingWord w := by
  simp [goodEvent, h]

/-- A good write reaches a register. -/
theorem goodEvent_unreached {off : BitVec 12} {size : AccessSize} {w : Word}
    (h : writeTarget off size = none) : goodEvent (.write off size w) = false := by
  simp [goodEvent, h]

/-- A good event is an access of the host. -/
theorem isResetEvent_of_goodEvent {e : HostEvent} (h : goodEvent e = true) : isResetEvent e = false := by
  cases e with
  | reset level => cases h
  | read | write => rfl

/-- Cleanliness reads the sticky bits alone. -/
theorem Clean.congr {s t : State} (h : Clean s) (hfault : t.status.fault = s.status.fault)
    (hbus : t.status.busErr = s.status.busErr) : Clean t :=
  ⟨hfault.trans h.1, hbus.trans h.2⟩

theorem EndsWith.clean {e : ErrCode} {s t : State} (ht : EndsWith e s t) (h : Clean s) : Clean t :=
  h.congr (by rw [ht.status]) (by rw [ht.status])

/-- Only an illegal shift makes a command fault (60_exceptions.md R208). -/
theorem Clean.exec {i : Instr} {s t : State} (hs : Clean s) (hgood : badShift i = false)
    (h : exec i s = .next t) : Clean t := by
  obtain ⟨hbad, -⟩ | ⟨-, ht⟩ | ⟨-, ht⟩ | ⟨-, ht⟩ := exec_cases h
  · rw [hgood] at hbad
    cases hbad
  all_goals exact ht.clean hs

theorem Clean.busRead {off : BitVec 12} {size : AccessSize} {s : State} (hs : Clean s)
    (hgood : goodEvent (.read off size) = true) : Clean (busRead off size s) := by
  obtain ⟨r, hr⟩ := Option.isSome_iff_exists.mp hgood
  rw [busRead_admitted hr]
  exact hs

theorem Clean.busWrite {off : BitVec 12} {size : AccessSize} {w : Word} {s t : State} (hs : Clean s)
    (hgood : goodEvent (.write off size w) = true) (h : busWrite off size w s = .next t) : Clean t := by
  obtain ⟨i, ht, hd, hx⟩ | ⟨d, ht, hd, -⟩ | ⟨r, -, -, rfl⟩ | ⟨ht, -⟩ := busWrite_cases h
  · rw [goodEvent_command ht, faultingWord_ok hd, Bool.not_eq_true'] at hgood
    exact Clean.exec (s := { setRdata none s with cmd := w }) hs hgood hx
  · rw [goodEvent_command ht, faultingWord_reject hd] at hgood
    cases hgood
  · exact hs.congr (by simp) (by simp)
  · rw [goodEvent_unreached ht] at hgood
    cases hgood

/-- A step on a good script keeps the state clean. -/
theorem Clean.step {s t : State} (hs : Clean s) (hgood : ∀ e ∈ s.host.script, goodEvent e = true)
    (h : step s = .next t) : Clean t := by
  obtain ⟨-, rfl⟩ | ⟨level, es, hes, -⟩ | ⟨off, size, es, hes, -, rfl⟩ | ⟨off, size, w, es, hes, -, h⟩ :=
    step_cases h
  · exact hs
  · cases hgood (.reset level) (by simp [hes])
  · exact Clean.busRead (s := setScript es s) hs (hgood _ (by simp [hes]))
  · exact Clean.busWrite (s := setScript es s) hs (hgood _ (by simp [hes])) h

/-- A clean state, RESET released, that has only good events to serve. -/
structure RunsClean (s : State) : Prop where
  clean : Clean s
  released : s.host.resetIn = false
  good : ∀ e ∈ s.host.script, goodEvent e = true

/-- Each step of such a state leaves such a state, one event further. -/
theorem RunsClean.exists_step {s : State} (hs : RunsClean s) :
    ∃ t, step s = .next t ∧ RunsClean t ∧ t.host.script = s.host.script.tail := by
  obtain ⟨t, h⟩ := exists_step_next hs.released
  obtain ⟨hscript, hreset⟩ := eventsAreServedInOrder s t h
  refine ⟨t, h, ⟨hs.clean.step hs.good h, ?_, fun e he => ?_⟩, hscript⟩
  · rw [hreset fun e he => isResetEvent_of_goodEvent (hs.good e (List.mem_of_mem_head? he)), hs.released]
  · exact hs.good e (List.mem_of_mem_tail (hscript ▸ he))

/-- A run takes its first step and goes on from there. -/
theorem run_succ {s t : State} (h : step s = .next t) (k : Nat) :
    Host.Core.run core (k + 1) s = Host.Core.run core k t := by
  have hcore : core.step s = .next t := h
  simp only [Host.Core.run, hcore]

/-- k steps serve the first k events of a good script and leave a clean state. -/
theorem RunsClean.exists_run (k : Nat) : ∀ {s : State}, RunsClean s →
    ∃ t, Host.Core.run core k s = .next t ∧ RunsClean t ∧ t.host.script = s.host.script.drop k := by
  induction k with
  | zero => exact fun hs => ⟨_, rfl, hs, rfl⟩
  | succ k ih =>
    intro s hs
    obtain ⟨u, hstep, hu, htail⟩ := hs.exists_step
    obtain ⟨t, hrun, ht, hdrop⟩ := ih hu
    refine ⟨t, (run_succ hstep k).trans hrun, ht, ?_⟩
    rw [hdrop, htail, List.drop_tail]

/-- Settles O60: after as many steps as the script has events none is left. -/
theorem goodScriptsRunClean : Obligations.GoodScriptsRunClean := by
  intro s hclean hreset hgood
  have hs : RunsClean s := ⟨hclean, hreset, hgood⟩
  refine ⟨fun k j _ => ?_, ?_⟩
  · obtain ⟨t, hrun, ht, -⟩ := hs.exists_run j
    exact ⟨t, hrun, ht.clean⟩
  · obtain ⟨t, hrun, -, hdrop⟩ := hs.exists_run s.host.script.length
    exact ⟨t, hrun, by rw [hdrop, List.drop_length]⟩

end Sys2Proof.Machine
end

section
/-! SUPPORT. RESET as an event (70_reset_and_hazards.md R230, R232): what its being driven does as a step, what
it stops, and where the error registers stand after it. -/

namespace Sys2Proof.Machine

/-- An access under RESET is a step the model lacks (70_reset_and_hazards.md R232). -/
theorem step_refused {s : State} {e : HostEvent} {es : List HostEvent} (hs : s.host.script = e :: es)
    (he : isResetEvent e = false) (hr : s.host.resetIn = true) : step s = .refused .accessDuringReset := by
  rw [step_serve hs]
  cases e with
  | reset level => cases he
  | read | write => exact if_pos hr

theorem step_reset {s : State} {level : Bool} {es : List HostEvent} (hs : s.host.script = .reset level :: es) :
    step s = .next (driveReset level (setScript es s)) :=
  step_serve hs

/-- The RESET input stands at the level it was last driven to. -/
@[simp] theorem driveReset_resetIn (level : Bool) (s : State) :
    (driveReset level s).host.resetIn = level := by
  unfold driveReset
  split
  · rfl
  next h =>
    simp only [Bool.or_eq_true, not_or, Bool.not_eq_true] at h
    obtain ⟨hlevel, hlow⟩ := h
    rw [hlevel, hlow]

/-- Settles O10: under RESET an access is refused, and neither an idle step nor RESET being driven is one. -/
theorem stepStopsOnlyUnderReset : Obligations.StepStopsOnlyUnderReset := by
  refine fun s => ⟨fun ⟨e, hhead, he⟩ hr => ?_, fun h => ?_⟩
  · obtain ⟨es, hs⟩ := List.head?_eq_some_iff.mp hhead
    exact step_refused hs he hr
  · obtain hev | hr := h
    · cases hs : s.host.script with
      | nil => exact ⟨s, step_idle hs⟩
      | cons e es =>
        cases e with
        | reset level => exact ⟨_, step_reset hs⟩
        | read | write => simp [hs, isResetEvent] at hev
    · exact exists_step_next hr

/-- Settles O56: every register of the reset state is computed, and RESET driven gives each that value. -/
theorem resetGivesTheStatedValues : Obligations.ResetGivesTheStatedValues := by
  refine ⟨fun r => by cases r <;> rfl, fun s level es hs h => ?_⟩
  exact ⟨_, step_reset hs, readReg_driveReset (s := setScript es s) h, driveReset_resetIn _ _,
    driveReset_script _ _⟩

/-- Settles O59: no fault, no bus error, CMD = 0 beside OK, and RESET released. -/
theorem bookkeepingHoldsAtReset : Obligations.BookkeepingHoldsAtReset where
  noFaultWord := fun _ => rfl
  faultWord := nofun
  noBusError := fun _ => rfl
  busError := nofun
  errOfCmd := rfl
  faultSticks := nofun
  heldInReset := nofun

end Sys2Proof.Machine
end

section
/-! SUPPORT. IIR_UPDATE with every tap, slot and bound +0.0, as reset leaves them (70_reset_and_hazards.md
R233). -/

namespace Sys2Proof.Machine

/-- +0.0 plus a zero of either sign is +0.0. -/
@[simp] theorem fadd_zero_fzero (m : Bool) : fadd 0#32 (fzero m) = 0#32 := by
  cases m <;> decide

theorem fmul_zero_of_isFin {a : Word} (ha : isFin a = true) : fmul 0#32 a = fzero (fsign a) :=
  (fmul_fzero_left ha false).trans (by rw [Bool.false_bne])

/-- With every tap +0.0 each product is a zero, and so is the sum of them. -/
theorem macc_reset {x : Word} (hx : isFin x = true) :
    macc State.reset.iir (shiftIn x State.reset.xy) = 0#32 := by
  have hslots : fmul 0#32 0#32 = fzero (fsign 0#32) := fmul_zero_of_isFin (by decide)
  simp [macc, State.reset, shiftIn, fmul_zero_of_isFin hx, hslots]

/-- Settles O57: a finite input gives zero products, and 0 · ∞ or a NaN makes the first product a NaN. -/
theorem resetFilterReturnsZeroOrNaN : Obligations.ResetFilterReturnsZeroOrNaN := by
  intro s t hiir hxy h
  refine ⟨fun hfin => ?_, fun hfin => ?_⟩
  · obtain rfl := Host.Outcome.next.inj h
    rw [iirUpdate_res0, iirOutput_eq_clamp, if_neg (by decide), hiir, hxy, macc_reset hfin]
    exact clamp_inside (flt_self 0) (fgt_eq_flt 0 0 ▸ flt_self 0)
  · obtain ⟨-, -, hnan, -⟩ := iirUpdateFiltersOneSample
    have hx : isNaN s.arg0 = true ∨ isInf s.arg0 = true ∧ isZero s.iir.ba0 = true := by
      rw [hiir]
      cases hn : isNaN s.arg0 with
      | true => exact .inl rfl
      | false => exact .inr ⟨isInf_of_not_isFin hn hfin, by decide⟩
    exact (hnan s t h hx).1

end Sys2Proof.Machine
end
